-- ==== Sys2Proof/Word.lean ====
section
/-! DEFINITION. The words of the STM32F0UDevice transport block and their plainest arithmetic
(00_scope R10, R15, R16; 30_encoding R110, R114). -/

namespace Sys2Proof

/-- One byte: every location of every memory (00_scope R10, 20_memory R80). -/
abbrev Byte := BitVec 8

/-- A 48-bit label word `op[47:40] ++ sel[39:32] ++ arg[31:0]` (30_encoding R110). -/
abbrev LabelWord := BitVec 48

/-- A 40-bit response word `status[39:32] ++ value[31:0]` (30_encoding R114). -/
abbrev RespWord := BitVec 40

/-- `wrap32(v)`: the unique integer in `-2^31 .. 2^31-1` congruent to `v` modulo `2^32` (00_scope R16). -/
def wrap32 (v : Int) : Int := Int.bmod v 4294967296

/-- `wrap16s(v)`: the unique integer in `-32768 .. 32767` congruent to `v` modulo `65536` (00_scope R16). -/
def wrap16s (v : Int) : Int := Int.bmod v 65536

end Sys2Proof
end

