-- ==== Sys2Proof/Syntax.lean ====
section
/-! DEFINITION. The labels of the block, one constructor per row of spec/opcode_table.json (30_encoding R118), with their
operands (30_encoding R112). -/

namespace Sys2Proof

/-- `parity`, `arg[30:29]` of `INIT` (30_encoding R112); the value 3 is reserved and has no constructor. -/
inductive Parity
  | none | even | odd
  deriving DecidableEq, Repr

/-- `directionSign`: `+1` forward, `-1` reversed (10_state R49; the operand `sign` of `SETDIR`, 30_encoding R112). -/
inductive Dir
  | forward | reversed
  deriving DecidableEq, Repr

/-- The 27 labels (30_encoding R118). A `WRITE` word carries the length of its payload; the payload itself comes on the
payload port (R113). -/
inductive Instr
  /-- `INIT baud, parity, hd` -/
  | init (baud : BitVec 29) (parity : Parity) (hd : Bool)
  /-- `WRITE [..]`, `n` payload bytes -/
  | write (n : BitVec 32)
  /-- `ISBUSY` -/
  | isbusy
  /-- `CHKFRM` -/
  | chkfrm
  /-- `SETRXCB cb, q` -/
  | setrxcb (cb : Bool) (q : Bool)
  /-- `RXPOP` -/
  | rxpop
  /-- `POSINIT t` -/
  | posinit (t : BitVec 8)
  /-- `INITALL` -/
  | initall
  /-- `SETDIR t, sign` -/
  | setdir (t : BitVec 8) (sign : Dir)
  /-- `SETPOS t, target`; `target` is two's complement -/
  | setpos (t : BitVec 8) (target : BitVec 32)
  /-- `GETPOS t` -/
  | getpos (t : BitVec 8)
  /-- `NCSTEP` -/
  | ncstep
  /-- `ICSTEP` -/
  | icstep
  /-- `EQDISP` -/
  | eqdisp
  /-- `DTXB` -/
  | dtxb
  /-- `LTC` -/
  | ltc
  /-- `LTXE` -/
  | ltxe
  /-- `LINEB b` -/
  | lineb (b : Byte)
  /-- `DRXB` -/
  | drxb
  /-- `LIDLE` -/
  | lidle
  /-- `CNTUP t` -/
  | cntup (t : BitVec 8)
  /-- `CNTDN t` -/
  | cntdn (t : BitVec 8)
  /-- `IRQTXC` -/
  | irqtxc
  /-- `IRQIDLE` -/
  | irqidle
  /-- `IRQRXNE` -/
  | irqrxne
  /-- `IRQORE` -/
  | irqore
  /-- `IRQOVF t` -/
  | irqovf (t : BitVec 8)
  deriving DecidableEq, Repr

/-- The tracker instance a position label names in `sel`, if it names one (30_encoding R112). -/
def Instr.tracker? : Instr → Option (BitVec 8)
  | .posinit t | .setdir t _ | .setpos t _ | .getpos t | .cntup t | .cntdn t | .irqovf t => some t
  | .init _ _ _ | .write _ | .isbusy | .chkfrm | .setrxcb _ _ | .rxpop | .initall | .ncstep | .icstep | .eqdisp
  | .dtxb | .ltc | .ltxe | .lineb _ | .drxb | .lidle | .irqtxc | .irqidle | .irqrxne | .irqore => none

/-- A host command: a label of the classes `0x0` and `0x1`, issued by `HOST` on the command port (30_encoding R111). -/
def Instr.isHost : Instr → Bool
  | .init _ _ _ | .write _ | .isbusy | .chkfrm | .setrxcb _ _ | .rxpop
  | .posinit _ | .initall | .setdir _ _ | .setpos _ _ | .getpos _ => true
  | .ncstep | .icstep | .eqdisp | .dtxb | .ltc | .ltxe | .lineb _ | .drxb | .lidle | .cntup _ | .cntdn _
  | .irqtxc | .irqidle | .irqrxne | .irqore | .irqovf _ => false

/-- An interrupt dispatch: a label of the class `0xC` (30_encoding R111, 60_exceptions R270). -/
def Instr.isDispatch : Instr → Bool
  | .irqtxc | .irqidle | .irqrxne | .irqore | .irqovf _ => true
  | .init _ _ _ | .write _ | .isbusy | .chkfrm | .setrxcb _ _ | .rxpop
  | .posinit _ | .initall | .setdir _ _ | .setpos _ _ | .getpos _
  | .ncstep | .icstep | .eqdisp | .dtxb | .ltc | .ltxe | .lineb _ | .drxb | .lidle | .cntup _ | .cntdn _ => false

/-- A boundary-agent step of `DTX`, `LINE`, `DRX` or `CNT`: classes `0x8`, `0x9`, `0xA` (30_encoding R111). -/
def Instr.isBoundary : Instr → Bool
  | .dtxb | .ltc | .ltxe | .lineb _ | .drxb | .lidle | .cntup _ | .cntdn _ => true
  | .init _ _ _ | .write _ | .isbusy | .chkfrm | .setrxcb _ _ | .rxpop
  | .posinit _ | .initall | .setdir _ _ | .setpos _ _ | .getpos _
  | .ncstep | .icstep | .eqdisp | .irqtxc | .irqidle | .irqrxne | .irqore | .irqovf _ => false

end Sys2Proof
end

