-- ==== Sys2Proof/Decode.lean ====
section
/-! DEFINITION. The decoder and the encoder of label words (30_encoding R110 to R122). The decoder is total on words and on
bytes and rejects by name. Whether a tracker number is below `NTRK` depends on the configuration and is looked at when the
label is executed (30_encoding R120 (e), entry 12). -/

namespace Sys2Proof

/-- The 27 operations of the opcode map (30_encoding R118), by name. -/
inductive Op
  | init | write | isbusy | chkfrm | setrxcb | rxpop
  | posinit | initall | setdir | setpos | getpos
  | ncstep | icstep | eqdisp
  | dtxb | ltc | ltxe
  | lineb | drxb | lidle
  | cntup | cntdn
  | irqtxc | irqidle | irqrxne | irqore | irqovf
  deriving DecidableEq, Repr

/-- Why a word spells no label (30_encoding R120 (a) to (d)). -/
inductive Illegal
  /-- (a) `op` is not one of the 27 values of R118 -/
  | unassignedOp
  /-- (b) a must-be-zero bit is set (R119) -/
  | mustBeZero
  /-- (c) `INIT` with `parity = 3` -/
  | parityReserved
  /-- (d) `SETDIR` with `sign` other than `+1` or `-1` -/
  | badSign
  /-- fewer than the six bytes of a label word (R110: there is one length) -/
  | tooShort
  deriving DecidableEq, Repr

/-- The column `op` of 30_encoding R118. -/
def Op.code : Op → BitVec 8
  | .init => 0x01 | .write => 0x02 | .isbusy => 0x03 | .chkfrm => 0x04 | .setrxcb => 0x05 | .rxpop => 0x06
  | .posinit => 0x10 | .initall => 0x11 | .setdir => 0x12 | .setpos => 0x13 | .getpos => 0x14
  | .ncstep => 0x40 | .icstep => 0x41 | .eqdisp => 0x42
  | .dtxb => 0x80 | .ltc => 0x81 | .ltxe => 0x82
  | .lineb => 0x90 | .drxb => 0x91 | .lidle => 0x92
  | .cntup => 0xA0 | .cntdn => 0xA1
  | .irqtxc => 0xC0 | .irqidle => 0xC1 | .irqrxne => 0xC2 | .irqore => 0xC3 | .irqovf => 0xC4

/-- The column `match` of 30_encoding R118. -/
def Op.matchBits : Op → LabelWord
  | .init => 0x010000000000 | .write => 0x020000000000 | .isbusy => 0x030000000000
  | .chkfrm => 0x040000000000 | .setrxcb => 0x050000000000 | .rxpop => 0x060000000000
  | .posinit => 0x100000000000 | .initall => 0x110000000000 | .setdir => 0x120000000000
  | .setpos => 0x130000000000 | .getpos => 0x140000000000
  | .ncstep => 0x400000000000 | .icstep => 0x410000000000 | .eqdisp => 0x420000000000
  | .dtxb => 0x800000000000 | .ltc => 0x810000000000 | .ltxe => 0x820000000000
  | .lineb => 0x900000000000 | .drxb => 0x910000000000 | .lidle => 0x920000000000
  | .cntup => 0xA00000000000 | .cntdn => 0xA10000000000
  | .irqtxc => 0xC00000000000 | .irqidle => 0xC10000000000 | .irqrxne => 0xC20000000000
  | .irqore => 0xC30000000000 | .irqovf => 0xC40000000000

/-- The column `mask` of 30_encoding R118. -/
def Op.maskBits : Op → LabelWord
  | .init | .write => 0xFFFF00000000
  | .setrxcb => 0xFFFFFFFFFFFC
  | .lineb => 0xFFFFFFFFFF00
  | .setdir | .setpos => 0xFF0000000000
  | .posinit | .getpos | .cntup | .cntdn | .irqovf => 0xFF00FFFFFFFF
  | .isbusy | .chkfrm | .rxpop | .initall | .ncstep | .icstep | .eqdisp | .dtxb | .ltc | .ltxe | .drxb | .lidle
  | .irqtxc | .irqidle | .irqrxne | .irqore => 0xFFFFFFFFFFFF

/-- Every row of 30_encoding R118, in its order. -/
def Op.all : List Op :=
  [.init, .write, .isbusy, .chkfrm, .setrxcb, .rxpop, .posinit, .initall, .setdir, .setpos, .getpos,
   .ncstep, .icstep, .eqdisp, .dtxb, .ltc, .ltxe, .lineb, .drxb, .lidle, .cntup, .cntdn,
   .irqtxc, .irqidle, .irqrxne, .irqore, .irqovf]

/-- `op = w[47:40]` (30_encoding R110). -/
def opField (w : LabelWord) : BitVec 8 := w.extractLsb' 40 8

/-- `sel = w[39:32]` (30_encoding R110). -/
def selField (w : LabelWord) : BitVec 8 := w.extractLsb' 32 8

/-- `arg = w[31:0]` (30_encoding R110). -/
def argField (w : LabelWord) : BitVec 32 := w.extractLsb' 0 32

/-- `op ++ sel ++ arg` (30_encoding R110). -/
def mkWord (op sel : BitVec 8) (arg : BitVec 32) : LabelWord := op ++ (sel ++ arg)

/-- The operation whose row has this `op` value, if any (30_encoding R118). -/
def opOfCode? (c : BitVec 8) : Option Op := Op.all.find? (fun o => o.code == c)

/-- The class digit `op[47:44]` of a word names a host command: `0x0` or `0x1` (30_encoding R111). -/
def isHostClass (w : LabelWord) : Bool := (opField w).toNat / 16 ≤ 1

/-- `parity = arg[30:29]` (30_encoding R112). -/
def decodeParity (p : BitVec 2) : Option Parity :=
  match p.toNat with
  | 0 => some .none
  | 1 => some .even
  | 2 => some .odd
  | _ => none

/-- `sign = sext_32(arg)`, `+1` or `-1` (30_encoding R112). -/
def decodeSign (a : BitVec 32) : Option Dir :=
  if a = 0x00000001 then some .forward else if a = 0xFFFFFFFF then some .reversed else none

/-- The operand fields of an operation read from `sel` and `arg` (30_encoding R112). -/
def assemble (o : Op) (sel : BitVec 8) (arg : BitVec 32) : Except Illegal Instr :=
  match o with
  | .init =>
    match decodeParity (arg.extractLsb' 29 2) with
    | some p => .ok (.init (arg.extractLsb' 0 29) p (arg.getLsbD 31))
    | none => .error .parityReserved
  | .write => .ok (.write arg)
  | .isbusy => .ok .isbusy
  | .chkfrm => .ok .chkfrm
  | .setrxcb => .ok (.setrxcb (arg.getLsbD 0) (arg.getLsbD 1))
  | .rxpop => .ok .rxpop
  | .posinit => .ok (.posinit sel)
  | .initall => .ok .initall
  | .setdir =>
    match decodeSign arg with
    | some d => .ok (.setdir sel d)
    | none => .error .badSign
  | .setpos => .ok (.setpos sel arg)
  | .getpos => .ok (.getpos sel)
  | .ncstep => .ok .ncstep
  | .icstep => .ok .icstep
  | .eqdisp => .ok .eqdisp
  | .dtxb => .ok .dtxb
  | .ltc => .ok .ltc
  | .ltxe => .ok .ltxe
  | .lineb => .ok (.lineb (arg.extractLsb' 0 8))
  | .drxb => .ok .drxb
  | .lidle => .ok .lidle
  | .cntup => .ok (.cntup sel)
  | .cntdn => .ok (.cntdn sel)
  | .irqtxc => .ok .irqtxc
  | .irqidle => .ok .irqidle
  | .irqrxne => .ok .irqrxne
  | .irqore => .ok .irqore
  | .irqovf => .ok (.irqovf sel)

/-- The label a 48-bit word spells, or why it spells none: a word `w` spells the label when `(w & mask) = match` and the
operand constraints of R112 hold (30_encoding R118 to R120). -/
def decode (w : LabelWord) : Except Illegal Instr :=
  match opOfCode? (opField w) with
  | none => .error .unassignedOp
  | some o =>
    if w &&& o.maskBits = o.matchBits then assemble o (selField w) (argField w)
    else .error .mustBeZero

/-- A label word carried as bytes: six bytes, most significant first (20_memory R83); the bytes after it are left over. -/
def decodeBytes (bs : List Byte) : Except Illegal (Instr × List Byte) :=
  match bs with
  | b5 :: b4 :: b3 :: b2 :: b1 :: b0 :: rest =>
    match decode (b5 ++ (b4 ++ (b3 ++ (b2 ++ (b1 ++ b0))))) with
    | .ok i => .ok (i, rest)
    | .error e => .error e
  | _ => .error .tooShort

/-! The encoder, from the same tables (30_encoding R112, R118, R128). -/

/-- The `parity` field (30_encoding R112). -/
def encodeParity : Parity → BitVec 2
  | .none => 0
  | .even => 1
  | .odd => 2

/-- The `sign` field as 32-bit two's complement (30_encoding R112, R128). -/
def encodeSign : Dir → BitVec 32
  | .forward => 0x00000001
  | .reversed => 0xFFFFFFFF

/-- The operation of a label (30_encoding R118). -/
def Instr.op : Instr → Op
  | .init _ _ _ => .init
  | .write _ => .write
  | .isbusy => .isbusy
  | .chkfrm => .chkfrm
  | .setrxcb _ _ => .setrxcb
  | .rxpop => .rxpop
  | .posinit _ => .posinit
  | .initall => .initall
  | .setdir _ _ => .setdir
  | .setpos _ _ => .setpos
  | .getpos _ => .getpos
  | .ncstep => .ncstep
  | .icstep => .icstep
  | .eqdisp => .eqdisp
  | .dtxb => .dtxb
  | .ltc => .ltc
  | .ltxe => .ltxe
  | .lineb _ => .lineb
  | .drxb => .drxb
  | .lidle => .lidle
  | .cntup _ => .cntup
  | .cntdn _ => .cntdn
  | .irqtxc => .irqtxc
  | .irqidle => .irqidle
  | .irqrxne => .irqrxne
  | .irqore => .irqore
  | .irqovf _ => .irqovf

/-- The field `sel` of a label: the tracker instance of a position label, else 0 (30_encoding R110, R112). -/
def Instr.selBits (i : Instr) : BitVec 8 := (i.tracker?).getD 0

/-- The field `arg` of a label (30_encoding R112, R128). -/
def Instr.argBits : Instr → BitVec 32
  | .init baud parity hd => BitVec.ofBool hd ++ (encodeParity parity ++ baud)
  | .write n => n
  | .setrxcb cb q => (0 : BitVec 30) ++ (BitVec.ofBool q ++ BitVec.ofBool cb)
  | .setdir _ sign => encodeSign sign
  | .setpos _ target => target
  | .lineb b => (0 : BitVec 24) ++ b
  | .isbusy | .chkfrm | .rxpop | .posinit _ | .initall | .getpos _ | .ncstep | .icstep | .eqdisp | .dtxb | .ltc | .ltxe
  | .drxb | .lidle | .cntup _ | .cntdn _ | .irqtxc | .irqidle | .irqrxne | .irqore | .irqovf _ => 0

/-- The word of a label (30_encoding R110, R118, R128). -/
def encode (i : Instr) : LabelWord := mkWord i.op.code i.selBits i.argBits

/-- A label word as the six bytes a byte-wide host link carries, most significant first (20_memory R83). -/
def wordBytes (w : LabelWord) : List Byte :=
  [w.extractLsb' 40 8, w.extractLsb' 32 8, w.extractLsb' 24 8, w.extractLsb' 16 8, w.extractLsb' 8 8, w.extractLsb' 0 8]

/-- A label as bytes (20_memory R83). -/
def encodeBytes (i : Instr) : List Byte := wordBytes (encode i)

/-- A response word as the five bytes a byte-wide host link carries, most significant first: the status, then the value
(20_memory R83, 30_encoding R114; entry 24). -/
def respBytes (r : RespWord) : List Byte :=
  [r.extractLsb' 32 8, r.extractLsb' 24 8, r.extractLsb' 16 8, r.extractLsb' 8 8, r.extractLsb' 0 8]

/-- The response word that five bytes carry, most significant first, and the bytes after it (20_memory R83). -/
def respOfBytes (bs : List Byte) : Option (RespWord × List Byte) :=
  match bs with
  | b4 :: b3 :: b2 :: b1 :: b0 :: rest => some (b4 ++ (b3 ++ (b2 ++ (b1 ++ b0))), rest)
  | _ => none

/-- The 48-bit word whose bits below `nbits` are those of `w` and whose other bits are 0. -/
def tableWord (nbits w : Nat) : LabelWord := BitVec.ofNat 48 (w % 2 ^ nbits)

/-- The label the decoder reads from a table row's word: its six bytes, as a byte-wide link carries them, given to
`decodeBytes`. -/
def decodeTableWord (nbits w : Nat) : Option Instr :=
  match decodeBytes (wordBytes (tableWord nbits w)) with
  | .ok (i, _) => some i
  | .error _ => none

end Sys2Proof
end

