-- ==== Sys2Proof/Config.lean ====
section
/-! DEFINITION. The implementation parameters of 00_scope R5 to R14, as one record of plain data.
The spec makes them part of the state record (10_state, opening paragraph), so `State` holds one and every
statement over states quantifies over them. There is no free value: the spec leaves no result of a running
label without a value. -/

namespace Sys2Proof

/-- `TX_MODE` (00_scope R8). -/
inductive TxMode
  | dma | irq
  deriving DecidableEq, Repr

/-- `RX_MODE` (00_scope R8). -/
inductive RxMode
  | dma | byte
  deriving DecidableEq, Repr

/-- `GETPOS_ORDER` (00_scope R13). -/
inductive GetposOrder
  | extFirst | cntFirst
  deriving DecidableEq, Repr

/-- The five interrupt sources of 60_exceptions R270. -/
inductive IrqSource
  | txc | idle | rxne | ore | ovf
  deriving DecidableEq, Repr

/-- `IRQ_PRIO` (00_scope R11): a priority order of the sources, highest first, and whether one handler may preempt
another. The spec's default is the empty order (the choice among pending sources is free) with no nesting. -/
structure IrqPrio where
  order : List IrqSource
  nesting : Bool
  deriving DecidableEq, Repr

/-- The record `Cfg` of 00_scope R5 to R14. -/
structure Cfg where
  /-- `TXCAP` (R5) -/
  txCap : Nat
  /-- `SCRATCHCAP` (R6) -/
  scratchCap : Nat
  /-- `RINGCAP` (R7) -/
  ringCap : Nat
  /-- `TX_MODE` (R8) -/
  txMode : TxMode
  /-- `RX_MODE` (R8) -/
  rxMode : RxMode
  /-- `NTRK` (R9) -/
  ntrk : Nat
  /-- `IRQ_PRIO` (R11) -/
  irqPrio : IrqPrio
  /-- `WR_TIMEOUT` (R12): the spec takes `none` -/
  wrTimeout : Option Nat
  /-- `GETPOS_ORDER` (R13) -/
  getposOrder : GetposOrder
  /-- `FUSE_SELECT_BUSY` (R14) -/
  fuseSelectBusy : Bool
  deriving DecidableEq, Repr

/-- `POOLCAP = 4`: the capacity of the tracker registry (00_scope R9). -/
def poolCap : Nat := 4

/-- A configuration of this spec: the capacities are at least 1 (00_scope R5 to R7), `NTRK <= POOLCAP` (R9, U7), handlers
do not nest (R11, U12), `Write` waits without bound (R12). -/
def Cfg.ok (c : Cfg) : Bool :=
  1 ≤ c.txCap && 1 ≤ c.scratchCap && 1 ≤ c.ringCap && c.ntrk ≤ poolCap && !c.irqPrio.nesting && c.wrTimeout.isNone

/-- The parameters of the conventions of 95_test_vectors, which `State.reset` takes.
DESIGN CHOICE (entry 4): unsafe for a claim about `State.reset` alone; a claim over every state quantifies over `Cfg`. -/
def Cfg.standard : Cfg :=
  { txCap := 4, scratchCap := 8, ringCap := 16, txMode := .dma, rxMode := .dma, ntrk := 1
    irqPrio := { order := [], nesting := false }, wrTimeout := none, getposOrder := .extFirst, fuseSelectBusy := false }

end Sys2Proof
end

