-- ==== Sys2Proof/Machine/State.lean ====
section
/-! DEFINITION. The state of the block as plain data (10_state R30 to R61), the reasons a step can stop, and reset
(70_reset_and_hazards R300). A field's docstring names the rule that gives it. -/

namespace Sys2Proof.Machine

/-- The four byte memories, each an address space of its own (20_memory R80). -/
inductive Space
  | txb0 | txb1 | scr | ring
  deriving DecidableEq, Repr

/-- Why the machine stops with a fault. The spec's one fault, `ChannelMismatch`, is none of these: it is the sticky field
`State.fault` (60_exceptions R266, entry 13). -/
inductive Fault
  /-- A byte that nothing has written since reset is read (10_state R61: it has no value and a read faults). Raised by
  `memRead`. Safe: the spec has the model fault here. -/
  | noValue (sp : Space) (a : Nat)
  /-- An index outside `0 .. capacity-1` (20_memory R84: a model that meets one should fault the run). Raised by `memRead` and
  `memWrite`. Safe. -/
  | indexOutOfRange (sp : Space) (a : Nat)
  /-- An index beyond the end of the latched payload `nc.data` (20_memory R84). Raised by `W3` and `B2`. Safe. -/
  | payloadIndexOutOfRange (k : Nat)
  deriving DecidableEq, Repr

/-- Why a label is given no meaning. -/
inductive Refusal
  /-- An instruction the model does not reach yet, by its mnemonic. Raised by `exec` alone. Safe. -/
  | notModelled (mnemonic : String)
  /-- A serial or position command accepted before the initialisation it needs (93 U5: treatment `refuse`). Raised by
  `needsUart` and `needsInited`. Safe. -/
  | commandBeforeInit
  /-- A second `INIT` (93 U6: treatment `refuse`). Raised by `execInit`. Safe. -/
  | secondInit
  /-- An illegal word of a class that is not a host class is not a label and cannot occur in a run (30_encoding R120). Raised by
  `illegalWord` and `trackerEvent`. Safe. -/
  | notALabel
  /-- `NTRK > 4` is not a configuration of the spec (93 U7: treatment `refuse`). Raised by `configRefusal`. Safe. -/
  | tooManyTrackers
  /-- A nesting `IRQ_PRIO` (93 U12: a model given one must `refuse`). Raised by `configRefusal`. Safe. -/
  | nestedHandlers
  /-- A bounded `WR_TIMEOUT` (93 U2: the spec does not define that variant's steps). Raised by `configRefusal`. Safe. -/
  | boundedWait
  /-- A capacity of 0, outside 00_scope R5 to R7. Raised by `configRefusal`. Safe. -/
  | zeroCapacity
  deriving DecidableEq, Repr

/-- The three outcomes of a label (00_scope R21). -/
abbrev Out (σ : Type) := Host.Outcome σ Fault Refusal

/-- A byte memory: the written bytes, addresses strictly rising. An unlisted address holds no value (10_state R61). -/
abbrev Memory := List Host.Cell

/-- The canonical form: addresses strictly rising. No entry can equal what an unlisted address reads as, since that is no
value at all. -/
def Memory.wf : Memory → Bool
  | [] => true
  | c :: m => (m.head?.all (fun d => c.1 < d.1)) && Memory.wf m

/-- The two transmit Buffers, by identity (20_memory R82: no numeric address). -/
inductive BufId
  | b0 | b1
  deriving DecidableEq, Repr

/-- The other Buffer. -/
def BufId.other : BufId → BufId
  | .b0 => .b1
  | .b1 => .b0

/-- One transmit Buffer (10_state R30 to R32). -/
structure TxBuf where
  /-- storage, `TXB(i)` (R30) -/
  mem : Memory
  /-- fill cursor (R31) -/
  fill : Nat
  /-- busy flag (R32) -/
  busy : Bool
  deriving DecidableEq, Repr

/-- The transmit DMA engine's registers (10_state R34); `src = none` is the spec's `NONE`, an address that is neither
Buffer's. -/
structure Dtx where
  en : Bool
  src : Option BufId
  len : Nat
  rem : Nat
  deriving DecidableEq, Repr

/-- State of the direction-control line (10_state R37). -/
inductive LineDir
  | rx | tx
  deriving DecidableEq, Repr

/-- TXARB (10_state R30 to R37). -/
structure Tx where
  buf0 : TxBuf
  buf1 : TxBuf
  /-- in-flight flag (R33) -/
  inFlight : Bool
  dtx : Dtx
  /-- DMA completion flag (R35) -/
  tcif : Bool
  /-- transmit-complete (R36) -/
  tc : Bool
  /-- transmit-empty (R36) -/
  txe : Bool
  /-- transmit data register (R36) -/
  tdr : Byte
  /-- half duplex configured (R37) -/
  hd : Bool
  /-- direction line (R37) -/
  de : LineDir
  deriving DecidableEq, Repr

/-- The receive DMA engine's registers (10_state R39). -/
structure Drx where
  en : Bool
  rem : Nat
  deriving DecidableEq, Repr

/-- RXFD (10_state R38 to R45). -/
structure Rx where
  /-- scratch buffer (R38) -/
  scr : Memory
  drx : Drx
  /-- ring buffer (R40) -/
  ring : Memory
  /-- write cursor (R40) -/
  wr : Nat
  /-- read cursor (R41) -/
  rd : Nat
  /-- Frame Signal (R42) -/
  frame : Bool
  /-- receive data register (R43) -/
  rdr : Byte
  /-- receive-data-register-not-empty (R43) -/
  rxne : Bool
  /-- idle-line flag (R44) -/
  idle : Bool
  /-- overrun flag (R44) -/
  ore : Bool
  /-- a callback is registered (R45) -/
  cbReg : Bool
  /-- an event queue is attached (R45) -/
  qAtt : Bool
  deriving DecidableEq, Repr

/-- One tracker instance (10_state R47 to R50, R55). -/
structure Tracker where
  /-- `hardwareCount` (R47) -/
  cnt : BitVec 16
  /-- `extension`, signed 16-bit (R48); read with `toInt` -/
  ext : BitVec 16
  /-- `directionSign` (R49) -/
  dir : Dir
  /-- update flag (R50) -/
  uif : Bool
  /-- initialised (R55) -/
  inited : Bool
  deriving DecidableEq, Repr

/-- The tracker registry (10_state R51). -/
structure Registry where
  n : Nat
  slots : List Nat
  deriving DecidableEq, Repr

/-- `nc.op` (10_state R53). -/
inductive NcOp
  | none | write | setpos | getpos
  deriving DecidableEq, Repr

/-- `nc.pc` (10_state R53). -/
inductive NcPhase
  | w0 | ws | w1 | w2 | w3 | w4 | w5 | b0 | b1 | b2 | s1 | s2 | g1 | g2
  deriving DecidableEq, Repr

/-- The normal-context sequencer (10_state R53). -/
structure Nc where
  op : NcOp
  pc : NcPhase
  /-- latched payload of `WRITE` -/
  data : List Byte
  /-- input cursor -/
  ip : Nat
  /-- remaining input -/
  rem : Nat
  /-- target Buffer -/
  tgt : BufId
  space : Nat
  chunk : Nat
  /-- tracker index -/
  t : Nat
  /-- 32-bit signed value -/
  val : BitVec 32
  /-- a latched extension or count, 16 bits of either (entry 19) -/
  e : BitVec 16
  deriving DecidableEq, Repr

/-- `ic.h` (10_state R54). -/
inductive Handler
  | none | txc | idle | rxne | ore | ovf
  deriving DecidableEq, Repr

/-- `ic.pc` (10_state R54). -/
inductive IcPhase
  | t1 | t2 | t3 | t4 | t5 | t6 | i1 | i2 | i3 | i4 | i5 | i6 | i7 | n1 | e1 | o1 | o2
  deriving DecidableEq, Repr

/-- The interrupt-context sequencer (10_state R54). -/
structure Ic where
  h : Handler
  pc : IcPhase
  /-- the Buffer that finished -/
  done : BufId
  /-- received length -/
  len : Nat
  /-- tracker index of an overflow -/
  t : Nat
  deriving DecidableEq, Repr

/-- `fault` (10_state R56). -/
inductive FaultRec
  | none | channelMismatch
  deriving DecidableEq, Repr

/-- The tag of a callback invocation (10_state R57). -/
inductive CbCtx
  | interrupt | normal
  deriving DecidableEq, Repr

/-- The observation (10_state R57): read by no rule. -/
structure Obs where
  txStream : List Byte
  cbLog : List CbCtx
  diagLog : List (BitVec 8)
  resp : List RespWord
  deriving DecidableEq, Repr

/-- What comes to the block from outside: a label word, or the pin `rst` (30_encoding R116, 70_reset_and_hazards R300). -/
inductive PortEvent
  | label (w : LabelWord)
  | rst
  deriving DecidableEq, Repr

/-- The model's own fields: the run still to come, as the list of words the spec writes it as (30_encoding, opening
paragraph; entry 2), and the bytes waiting on the payload port (30_encoding R113, entry 3). -/
structure Inputs where
  events : List PortEvent
  wdata : List Byte
  deriving DecidableEq, Repr

/-- The state record `S = (cfg, tx, rx, pos, reg, nc, ic, evq, fault, obs)` of 10_state, and the inputs. -/
structure State where
  /-- parameters (00_scope R5 to R14) -/
  cfg : Cfg
  /-- `cfg.uart_init` (R55) -/
  uartInit : Bool
  tx : Tx
  rx : Rx
  /-- `pos[0 .. NTRK-1]` -/
  pos : List Tracker
  reg : Registry
  nc : Nc
  ic : Ic
  /-- `evq.n` (R46) -/
  evq : Nat
  fault : FaultRec
  obs : Obs
  inp : Inputs
  deriving DecidableEq, Repr

/-- A transmit Buffer after reset (R300). -/
def TxBuf.reset : TxBuf := { mem := [], fill := 0, busy := false }

/-- TXARB after reset (R300); `tdr` is entry 5. -/
def Tx.reset : Tx :=
  { buf0 := TxBuf.reset, buf1 := TxBuf.reset, inFlight := false
    dtx := { en := false, src := none, len := 0, rem := 0 }
    tcif := false, tc := true, txe := true, tdr := 0, hd := false, de := .rx }

/-- RXFD after reset (R300); `rdr` is entry 5. -/
def Rx.reset (c : Cfg) : Rx :=
  { scr := [], drx := { en := false, rem := c.scratchCap }, ring := [], wr := 0, rd := 0, frame := false, rdr := 0
    rxne := false, idle := false, ore := false, cbReg := false, qAtt := false }

/-- A tracker after reset (R300). -/
def Tracker.reset : Tracker := { cnt := 0, ext := 0, dir := .forward, uif := false, inited := false }

/-- The normal-context sequencer after reset: `nc.op = NONE` (R53); the rest is entry 6. -/
def Nc.reset : Nc :=
  { op := .none, pc := .w0, data := [], ip := 0, rem := 0, tgt := .b0, space := 0, chunk := 0, t := 0, val := 0, e := 0 }

/-- The interrupt-context sequencer after reset: `ic.h = NONE` (R54); the rest is entry 7. -/
def Ic.reset : Ic := { h := .none, pc := .t1, done := .b0, len := 0, t := 0 }

/-- The observation after reset: all empty (R57). -/
def Obs.reset : Obs := { txStream := [], cbLog := [], diagLog := [], resp := [] }

/-- The block right after reset with the parameters `c` (70_reset_and_hazards R300), nothing waiting at its ports. -/
def State.resetWith (c : Cfg) : State :=
  { cfg := c, uartInit := false, tx := Tx.reset, rx := Rx.reset c
    pos := List.replicate c.ntrk Tracker.reset
    reg := { n := c.ntrk, slots := List.range c.ntrk }
    nc := Nc.reset, ic := Ic.reset, evq := 0, fault := .none, obs := Obs.reset
    inp := { events := [], wdata := [] } }

/-- The machine right after reset, with the parameters of the conventions of 95_test_vectors (entry 4). -/
def State.reset : State := State.resetWith Cfg.standard

end Sys2Proof.Machine
end

