-- ==== Sys2Proof/Machine/Ops.lean ====
section
/-! DEFINITION. The named operations every rule is written with (00_scope R17): byte memories (20_memory R80 to R84, R96),
responses and logs, the start of a transmit transfer, the ring push, the entry of an interrupt handler and the return from
one (60_exceptions R275, R276), the one fault (60_exceptions R266), and reset (70_reset_and_hazards R300). -/

namespace Sys2Proof.Machine

/-! ### Byte memories -/

/-- The byte a memory holds at an index; `none` is the spec's "no value" (10_state R61). -/
def Memory.read : Memory → Nat → Option Byte
  | [], _ => none
  | c :: m, a => if c.1 = a then some c.2 else Memory.read m a

/-- A memory with byte `b` at index `a`. Every byte differs from "no value", so a write never removes an entry. -/
def Memory.write : Memory → Nat → Byte → Memory
  | [], a, b => [(a, b)]
  | c :: m, a, b =>
    if c.1 < a then c :: Memory.write m a b
    else if c.1 = a then (a, b) :: m
    else (a, b) :: c :: m

/-- `TXB(i)` (20_memory R80). -/
def BufId.space : BufId → Space
  | .b0 => .txb0
  | .b1 => .txb1

/-- `tx.buf[i]`. -/
def State.buf (s : State) : BufId → TxBuf
  | .b0 => s.tx.buf0
  | .b1 => s.tx.buf1

/-- `tx.buf[i] <- f`. -/
def State.setBuf (s : State) (i : BufId) (f : TxBuf) : State :=
  match i with
  | .b0 => { s with tx := { s.tx with buf0 := f } }
  | .b1 => { s with tx := { s.tx with buf1 := f } }

/-- The memory of an address space (20_memory R80). -/
def State.mem (s : State) : Space → Memory
  | .txb0 => s.tx.buf0.mem
  | .txb1 => s.tx.buf1.mem
  | .scr => s.rx.scr
  | .ring => s.rx.ring

/-- Replaces the memory of an address space. -/
def State.setMem (s : State) (sp : Space) (m : Memory) : State :=
  match sp with
  | .txb0 => { s with tx := { s.tx with buf0 := { s.tx.buf0 with mem := m } } }
  | .txb1 => { s with tx := { s.tx with buf1 := { s.tx.buf1 with mem := m } } }
  | .scr => { s with rx := { s.rx with scr := m } }
  | .ring => { s with rx := { s.rx with ring := m } }

/-- The size of an address space (20_memory R80). -/
def capacityOf (c : Cfg) : Space → Nat
  | .txb0 => c.txCap
  | .txb1 => c.txCap
  | .scr => c.scratchCap
  | .ring => c.ringCap

/-- The byte at an index of an address space, if it holds one: the model's read of one byte. -/
def State.readByte (s : State) (sp : Space) (a : Nat) : Option Byte := (s.mem sp).read a

/-- `MemRead(space, a, 1)` (00_scope R17): an index out of range faults (20_memory R84), and so does a byte that holds no value
(10_state R61). -/
def memRead (s : State) (sp : Space) (a : Nat) : Except Fault Byte :=
  if a < capacityOf s.cfg sp then
    match s.readByte sp a with
    | some b => .ok b
    | none => .error (.noValue sp a)
  else .error (.indexOutOfRange sp a)

/-- `MemWrite(space, a, 1, b)` (00_scope R17): an index out of range faults (20_memory R84). -/
def memWrite (s : State) (sp : Space) (a : Nat) (b : Byte) : Except Fault State :=
  if a < capacityOf s.cfg sp then .ok (s.setMem sp ((s.mem sp).write a b))
  else .error (.indexOutOfRange sp a)

/-- `MemWrite` of a byte sequence at ascending indices (40_transmit R146). -/
def memWriteBytes (s : State) (sp : Space) (a : Nat) : List Byte → Except Fault State
  | [] => .ok s
  | b :: bs =>
    match memWrite s sp a b with
    | .ok s1 => memWriteBytes s1 sp (a + 1) bs
    | .error f => .error f

/-- One byte into the ring: `MemWrite(RING, rx.wr, 1, b)`, then `rx.wr <- (rx.wr + 1) mod RINGCAP`, with no full test
(41_receive R187, R191; 20_memory R95). -/
def ringPush (s : State) (b : Byte) : Except Fault State :=
  match memWrite s .ring s.rx.wr b with
  | .ok s1 => .ok { s1 with rx := { s1.rx with wr := (s1.rx.wr + 1) % s1.cfg.ringCap } }
  | .error f => .error f

/-- Copies `n` bytes of the scratch buffer from index `k` on into the ring (41_receive R187). -/
def copyFrame (s : State) (k : Nat) : Nat → Except Fault State
  | 0 => .ok s
  | n + 1 =>
    match memRead s .scr k with
    | .ok b =>
      match ringPush s b with
      | .ok s1 => copyFrame s1 (k + 1) n
      | .error f => .error f
    | .error f => .error f

/-! ### Outcomes -/

/-- A label that is not enabled "is not taken, and the state does not change" (00_scope R19, entry 1). -/
def notTaken (s : State) : Out State := .next s

/-- The outcome of an effect that may meet a memory fault. -/
def ofExcept : Except Fault State → Out State
  | .ok s => .next s
  | .error f => .fault f

/-! ### Responses and the observation -/

/-- Status `OK` (30_encoding R115). -/
def statusOk : BitVec 8 := 0x00

/-- Status `TIMEOUT`, reserved: no rule returns it (30_encoding R115, 93 U17). -/
def statusTimeout : BitVec 8 := 0x01

/-- Status `ILLEGAL` (30_encoding R115). -/
def statusIllegal : BitVec 8 := 0xFF

/-- The diagnostic code `DIAG_POOL_EMPTY` (44_init_config R255). -/
def diagPoolEmpty : BitVec 8 := 0x01

/-- The response word `status ++ value` (30_encoding R114). -/
def respWord (status : BitVec 8) (value : BitVec 32) : RespWord := status ++ value

/-- `respond(status, value)`: delivers the response word and ends the current host command, `nc.op <- NONE`
(00_scope R17). -/
def respond (s : State) (status : BitVec 8) (value : BitVec 32) : State :=
  { s with nc := { s.nc with op := .none }, obs := { s.obs with resp := s.obs.resp ++ [respWord status value] } }

/-- `emit_tx(b)` (00_scope R17). -/
def emitTx (s : State) (b : Byte) : State := { s with obs := { s.obs with txStream := s.obs.txStream ++ [b] } }

/-- `log_cb(ctx)` (00_scope R17). -/
def logCb (s : State) (c : CbCtx) : State := { s with obs := { s.obs with cbLog := s.obs.cbLog ++ [c] } }

/-- `log_diag(code)` (00_scope R17). -/
def logDiag (s : State) (code : BitVec 8) : State := { s with obs := { s.obs with diagLog := s.obs.diagLog ++ [code] } }

/-! ### The transmit DMA engine -/

/-- Points the DMA engine at Buffer `i`'s storage and fill cursor and starts the transfer; a configured direction line goes to
transmit (40_transmit R147, R163; 10_state R37). -/
def startTransfer (s : State) (i : BufId) : State :=
  { s with tx := { s.tx with
      dtx := { en := true, src := some i, len := (s.buf i).fill, rem := (s.buf i).fill }
      de := if s.tx.hd then .tx else s.tx.de } }

/-! ### Sequencers, exceptions and reset -/

/-- `nc.pc <- p`. -/
def setNcPc (s : State) (p : NcPhase) : State := { s with nc := { s.nc with pc := p } }

/-- `ic.pc <- p`. -/
def setIcPc (s : State) (p : IcPhase) : State := { s with ic := { s.ic with pc := p } }

/-- Taking an interrupt: the dispatch writes `ic.h` and `ic.pc` and nothing else; nothing is saved (60_exceptions R275). -/
def enterHandler (s : State) (h : Handler) (p : IcPhase) : State := { s with ic := { s.ic with h := h, pc := p } }

/-- Return from a handler: its last phase writes `ic.h <- NONE`; nothing is restored (60_exceptions R276). -/
def leaveHandler (s : State) : State := { s with ic := { s.ic with h := .none } }

/-- `raise ChannelMismatch`: the sticky fault record is set and nothing else is written (60_exceptions R266). -/
def raiseChannelMismatch (s : State) : State := { s with fault := .channelMismatch }

/-- The pin `rst`: every field at its reset value, the parameters unchanged (70_reset_and_hazards R300). What still comes to the
ports is outside the block and stays (entry 17). -/
def resetBlock (s : State) : State := { State.resetWith s.cfg with inp := s.inp }

end Sys2Proof.Machine
end

