-- ==== Sys2Proof/Machine/Flags.lean ====
section
/-! DEFINITION. The conditions the rules test: readiness, selectability, holds, pending interrupts
(10_state R58, 30_encoding R116, R125, R126, 60_exceptions R270). -/

namespace Sys2Proof.Machine

/-- `cmd_ready = (nc.op = NONE and ic.h = NONE and fault = NONE)` (30_encoding R116). -/
def State.cmdReady (s : State) : Bool := s.nc.op = .none && s.ic.h = .none && s.fault = .none

/-- Buffer `i` is the active channel: `tx.dtx.src = Bi`, whatever `en` and `in_flight` hold (10_state R58). -/
def State.activeChannel (s : State) (i : BufId) : Bool := s.tx.dtx.src = some i

/-- Buffer `i` is selectable: not the active channel, with spare capacity (10_state R58). -/
def State.selectable (s : State) (i : BufId) : Bool := !s.activeChannel i && (s.buf i).fill < s.cfg.txCap

/-- `nc.pc` is a phase of the command `nc.op`: the rows of 30_encoding R125. -/
def NcOp.hasPhase : NcOp → NcPhase → Bool
  | .none, _ => false
  | .write, .w0 | .write, .ws | .write, .w1 | .write, .w2 | .write, .w3 | .write, .w4 | .write, .w5 => true
  | .write, .b0 | .write, .b1 | .write, .b2 => true
  | .write, .s1 | .write, .s2 | .write, .g1 | .write, .g2 => false
  | .setpos, .s1 | .setpos, .s2 => true
  | .setpos, _ => false
  | .getpos, .g1 | .getpos, .g2 => true
  | .getpos, _ => false

/-- `ic.pc` is a phase of the handler `ic.h`: the rows of 30_encoding R126. -/
def Handler.hasPhase : Handler → IcPhase → Bool
  | .none, _ => false
  | .txc, .t1 | .txc, .t2 | .txc, .t3 | .txc, .t4 | .txc, .t5 | .txc, .t6 => true
  | .txc, _ => false
  | .idle, .i1 | .idle, .i2 | .idle, .i3 | .idle, .i4 | .idle, .i5 | .idle, .i6 | .idle, .i7 => true
  | .idle, _ => false
  | .rxne, p => p = .n1
  | .ore, p => p = .e1
  | .ovf, p => p = .o1 || p = .o2

/-- The phase `nc.pc` names is held: `WS` with no selectable Buffer, `B1` with `tx.txe = 0` (30_encoding R125). -/
def State.ncHeld (s : State) : Bool :=
  match s.nc.pc with
  | .ws => !(s.selectable .b0 || s.selectable .b1)
  | .b1 => !s.tx.txe
  | .w0 | .w1 | .w2 | .w3 | .w4 | .w5 | .b0 | .b2 | .s1 | .s2 | .g1 | .g2 => false

/-- The transmit DMA engine has a byte left to move: `tx.dtx.en = 1` and `tx.dtx.rem > 0` (40_transmit R152, R153). -/
def State.dtxMoving (s : State) : Bool := s.tx.dtx.en && 0 < s.tx.dtx.rem

/-- The phase `ic.pc` names is held: `T6` with `tx.hd = 1` and `tx.tc = 0` (30_encoding R126), and also while a chained transfer has
bytes to move, so that the line is never turned in mid-transfer (70_reset_and_hazards R324, 90_conflicts C8; entry 28). -/
def State.icHeld (s : State) : Bool :=
  match s.ic.pc with
  | .t6 => s.tx.hd && (!s.tx.tc || s.dtxMoving)
  | .t1 | .t2 | .t3 | .t4 | .t5 | .i1 | .i2 | .i3 | .i4 | .i5 | .i6 | .i7 | .n1 | .e1 | .o1 | .o2 => false

/-- `NCSTEP` is enabled (30_encoding R125). -/
def State.ncstepReady (s : State) : Bool :=
  s.ic.h = .none && s.fault = .none && s.nc.op.hasPhase s.nc.pc && !s.ncHeld

/-- `ICSTEP` is enabled (30_encoding R126). -/
def State.icstepReady (s : State) : Bool := s.fault = .none && s.ic.h.hasPhase s.ic.pc && !s.icHeld

/-- `EQDISP` is enabled (30_encoding R127). -/
def State.eqdispReady (s : State) : Bool := 0 < s.evq && s.cmdReady

/-- A serial boundary step can happen: `cfg.uart_init = 1` and `fault = NONE` (10_state R55). -/
def State.serialOn (s : State) : Bool := s.uartInit && s.fault = .none

/-- `DTXB` is enabled in what concerns everything but the source register (40_transmit R152). -/
def State.dtxbReady (s : State) : Bool :=
  s.serialOn && s.cfg.txMode = .dma && s.dtxMoving

/-- `LTC` is enabled: the transmitter has nothing more coming (40_transmit R153). -/
def State.ltcReady (s : State) : Bool :=
  s.serialOn && !s.tx.tc && s.tx.txe && !s.dtxMoving

/-- `LTXE` is enabled (40_transmit R154). -/
def State.ltxeReady (s : State) : Bool := s.serialOn && s.cfg.txMode = .irq && !s.tx.txe

/-- `DRXB` is enabled (41_receive R182). -/
def State.drxbReady (s : State) : Bool := s.serialOn && s.cfg.rxMode = .dma && s.rx.drx.en && s.rx.rxne

/-- The interrupt source has its pending flag set and may be dispatched as far as initialisation and mode go
(60_exceptions R270). -/
def State.irqRequested (s : State) : IrqSource → Bool
  | .txc => s.uartInit && s.cfg.txMode = .dma && s.tx.tcif
  | .idle => s.uartInit && s.rx.idle
  | .rxne => s.uartInit && s.cfg.rxMode = .byte && s.rx.rxne
  | .ore => s.uartInit && s.rx.ore
  | .ovf => s.pos.any (fun p => p.inited && p.uif)

/-- `IRQ_PRIO` allows the source: no source that stands before it in the order requests an interrupt. With the empty order, the
spec's default, every source is allowed (00_scope R11; 60_exceptions R272; entry 15). -/
def State.prioAllows (s : State) (src : IrqSource) : Bool :=
  (s.cfg.irqPrio.order.takeWhile (fun x => x != src)).all (fun x => !s.irqRequested x)

/-- A dispatch can be taken: no handler is active, no fault, and `IRQ_PRIO` allows the source
(60_exceptions R270, R272, R276). -/
def State.dispatchReady (s : State) (src : IrqSource) : Bool :=
  s.ic.h = .none && s.fault = .none && s.prioAllows src

end Sys2Proof.Machine
end

