-- ==== Sys2Proof/Machine/Operands.lean ====
section
/-! DEFINITION. The operand forms and the guards the meanings share: the next word of the run, the payload, the tracker a
position label names, the acceptance of a host command, the arithmetic of the position (43_position R231), the values of
responses (30_encoding R114). -/

namespace Sys2Proof.Machine

/-! ### The configuration and the ports -/

/-- Why the state's parameters are no configuration of the spec, if they are not (00_scope R5 to R7; 93 U7, U12; 00_scope
R12; entry 14). -/
def configRefusal (c : Cfg) : Option Refusal :=
  if c.txCap = 0 ∨ c.scratchCap = 0 ∨ c.ringCap = 0 then some .zeroCapacity
  else if poolCap < c.ntrk then some .tooManyTrackers
  else if c.irqPrio.nesting then some .nestedHandlers
  else if c.wrTimeout.isSome then some .boundedWait
  else none

/-- What comes next to the block, and the state with it taken from the port (entry 2). -/
def fetchEvent (s : State) : Option (PortEvent × State) :=
  match s.inp.events with
  | [] => none
  | e :: es => some (e, { s with inp := { s.inp with events := es } })

/-- The payload of a `WRITE` of `n` bytes is on the payload port (30_encoding R113, entry 3). -/
def State.payloadThere (s : State) (n : BitVec 32) : Bool := n.toNat ≤ s.inp.wdata.length

/-- The payload of `n` bytes, first byte of the sequence first (30_encoding R113). -/
def State.payload (s : State) (n : BitVec 32) : List Byte := s.inp.wdata.take n.toNat

/-- The payload port after the `n` bytes are taken. -/
def State.dropPayload (s : State) (n : BitVec 32) : State :=
  { s with inp := { s.inp with wdata := s.inp.wdata.drop n.toNat } }

/-! ### Host commands -/

/-- A host command is accepted only while `cmd_ready` holds; otherwise it is not taken (30_encoding R111, R116). The payload of a
`WRITE` that is not taken stays on its port: DESIGN CHOICE (entry 27). -/
def whenReady (s : State) (o : Out State) : Out State := if s.cmdReady then o else notTaken s

/-- A serial command needs `INIT` before it (44_init_config R257); without it the run is refused (93 U5, entry 10). -/
def needsUart (s : State) (o : Out State) : Out State := if s.uartInit then o else .refused .commandBeforeInit

/-- `SETPOS` and `GETPOS` need the tracker's initialisation (44_init_config R257); without it the run is refused (93 U5). -/
def needsInited (p : Tracker) (o : Out State) : Out State := if p.inited then o else .refused .commandBeforeInit

/-- The answer to an illegal host word: `respond(ILLEGAL, 0)`, and nothing but `obs.resp` changes (30_encoding R120). -/
def answerIllegal (s : State) : Out State := .next (respond s statusIllegal 0)

/-- An illegal word. One of a host class, or with an unassigned `op`, is answered `ILLEGAL` while `cmd_ready` holds and is
otherwise not taken; one of another class is not a label (30_encoding R120; entries 11, 12). The payload of an illegal `WRITE` word
stays on its port: DESIGN CHOICE (entry 27). -/
def illegalWord (w : LabelWord) (e : Illegal) (s : State) : Out State :=
  if isHostClass w || e = .unassignedOp then whenReady s (answerIllegal s) else .refused .notALabel

/-- The answer `1` or `0` of a command that returns a boolean (30_encoding R114). -/
def boolValue (b : Bool) : BitVec 32 := if b then 1 else 0

/-- `RXPOP`'s value when a byte is returned: `value[8] = 1`, `value[7:0]` the byte (30_encoding R114). -/
def popValue (b : Byte) : BitVec 32 := (0 : BitVec 23) ++ ((1 : BitVec 1) ++ b)

/-! ### Trackers -/

/-- The tracker instance `t`, when `t < NTRK` (30_encoding R112). -/
def State.tracker? (s : State) (t : Nat) : Option Tracker := if t < s.cfg.ntrk then s.pos[t]? else none

/-- `pos[t] <- p`. -/
def State.setTracker (s : State) (t : Nat) (p : Tracker) : State := { s with pos := s.pos.set t p }

/-- A position host command on the tracker its word names; a word with `t >= NTRK` is illegal and answered so
(30_encoding R120 (e)). -/
def trackerCommand (s : State) (t : BitVec 8) (f : Tracker → Out State) : Out State :=
  whenReady s (match s.tracker? t.toNat with
    | some p => f p
    | none => answerIllegal s)

/-- A boundary or dispatch label of a tracker; a word with `t >= NTRK` is not a label (30_encoding R120). -/
def trackerEvent (s : State) (t : BitVec 8) (f : Tracker → Out State) : Out State :=
  match s.tracker? t.toNat with
  | some p => f p
  | none => .refused .notALabel

/-! ### The arithmetic of the position -/

/-- `ext * 65536 + cnt`, computed exactly (43_position R231). -/
def rawPos (ext cnt : BitVec 16) : Int := ext.toInt * 65536 + (cnt.toNat : Int)

/-- `v` as it is for `+1`, `wrap32(-v)` for `-1` (43_position R226, R229, R231). -/
def directed (d : Dir) (v : Int) : Int :=
  match d with
  | .forward => v
  | .reversed => wrap32 (-v)

/-- The logical position (10_state R52). -/
def Tracker.logical (p : Tracker) : Int := directed p.dir (rawPos p.ext p.cnt)

/-- `floor(tp / 65536)` as the signed 16-bit extension (43_position R226). -/
def extOf (tp : Int) : BitVec 16 := BitVec.ofInt 16 (tp / 65536)

/-- `tp mod 65536` as the 16-bit count (43_position R226). -/
def cntOf (tp : Int) : BitVec 16 := BitVec.ofInt 16 (tp % 65536)

/-- A position as the 32-bit two's complement number of a response (30_encoding R114). -/
def posValue (v : Int) : BitVec 32 := BitVec.ofInt 32 v

/-- `ext` moved by `d` with `wrap16s` (43_position R223, R231). -/
def moveExt (ext : BitVec 16) (d : Int) : BitVec 16 := BitVec.ofInt 16 (wrap16s (ext.toInt + d))

/-- The extension after an overflow: up when the counter's current value is in the lower half, else down
(43_position R223). -/
def inferExt (p : Tracker) : BitVec 16 := if p.cnt.toNat ≤ 0x7FFF then moveExt p.ext 1 else moveExt p.ext (-1)

/-- One count up; the wrap 65535 to 0 sets the update flag (43_position R220). -/
def Tracker.countUp (p : Tracker) : Tracker :=
  if p.cnt = 65535 then { p with cnt := 0, uif := true } else { p with cnt := p.cnt + 1 }

/-- One count down; the wrap 0 to 65535 sets the update flag (43_position R221). -/
def Tracker.countDown (p : Tracker) : Tracker :=
  if p.cnt = 0 then { p with cnt := 65535, uif := true } else { p with cnt := p.cnt - 1 }

end Sys2Proof.Machine
end

