-- ==== Sys2Proof/Machine/FrameSignal.lean ====
section
/-! DEFINITION. The Frame Signal latch (42_frame_signal): `CHKFRM`. -/

namespace Sys2Proof.Machine

/-- `CHKFRM` (R210): tests and clears the Frame Signal in one step. -/
def execChkfrm (s : State) : Out State :=
  whenReady s (needsUart s (
    if s.rx.frame then .next (respond { s with rx := { s.rx with frame := false } } statusOk 1)
    else .next (respond s statusOk 0)))

end Sys2Proof.Machine
end

