-- ==== Sys2Proof/Machine/InitConfig.lean ====
section
/-! DEFINITION. Initialisation and configuration commands (44_init_config): `INIT`, `SETRXCB`, `POSINIT`, `INITALL`. -/

namespace Sys2Proof.Machine

/-- `INIT baud, parity, hd` (R250): `baud` and `parity` are decoded and dropped (93 U11). -/
def execInit (_baud : BitVec 29) (_parity : Parity) (hd : Bool) (s : State) : Out State :=
  whenReady s (
    if s.uartInit then .refused .secondInit
    else
      .next (respond { s with
        uartInit := true
        tx := { s.tx with hd := hd }
        rx := { s.rx with drx := match s.cfg.rxMode with
          | .dma => { en := true, rem := s.cfg.scratchCap }
          | .byte => s.rx.drx } } statusOk 0))

/-- `SETRXCB cb, q` (R252). -/
def execSetrxcb (cb q : Bool) (s : State) : Out State :=
  whenReady s (.next (respond { s with rx := { s.rx with cbReg := cb, qAtt := q } } statusOk 0))

/-- The effect of `POSINIT` on instance `k` (R254); a number that names no instance has none (entry 23). -/
def markInited (s : State) (k : Nat) : State :=
  match s.tracker? k with
  | some p => s.setTracker k { p with inited := true }
  | none => s

/-- `POSINIT t` (R254). -/
def execPosinit (t : BitVec 8) (s : State) : Out State :=
  trackerCommand s t (fun _ => .next (respond (markInited s t.toNat) statusOk 0))

/-- `INITALL` (R255): a diagnostic when the registry is empty, else every registered instance in registration order. -/
def execInitall (s : State) : Out State :=
  whenReady s (
    if s.reg.n = 0 then .next (respond (logDiag s diagPoolEmpty) statusOk 0)
    else .next (respond ((s.reg.slots.take s.reg.n).foldl markInited s) statusOk 0))

end Sys2Proof.Machine
end

