-- ==== Sys2Proof/Machine/Position.lean ====
section
/-! DEFINITION. POSX, the overflow-extension position counter (43_position): `CNTUP`, `CNTDN`, `IRQOVF`, `SETPOS`, `GETPOS`, `SETDIR`
and the phases `O1`, `O2`, `S1`, `S2`, `G1`, `G2`. A phase whose latched index names no tracker has no rule and is not taken
(entry 16). -/

namespace Sys2Proof.Machine

/-- `CNTUP t` (R220). -/
def execCntup (t : BitVec 8) (s : State) : Out State :=
  trackerEvent s t (fun p =>
    if p.inited && s.fault = .none then .next (s.setTracker t.toNat p.countUp) else notTaken s)

/-- `CNTDN t` (R221). -/
def execCntdn (t : BitVec 8) (s : State) : Out State :=
  trackerEvent s t (fun p =>
    if p.inited && s.fault = .none then .next (s.setTracker t.toNat p.countDown) else notTaken s)

/-- `IRQOVF t` (R222): dispatch of the overflow interrupt of tracker `t`. -/
def execIrqovf (t : BitVec 8) (s : State) : Out State :=
  trackerEvent s t (fun p =>
    if s.dispatchReady .ovf && p.inited && p.uif then
      let s1 := enterHandler s .ovf .o1
      .next { s1 with ic := { s1.ic with t := t.toNat } }
    else notTaken s)

/-- Phase `O1` (R223): infers the direction from the counter's current value and moves the extension. -/
def phaseO1 (s : State) : Out State :=
  match s.tracker? s.ic.t with
  | some p => .next (setIcPc (s.setTracker s.ic.t { p with ext := inferExt p }) .o2)
  | none => notTaken s

/-- Phase `O2` (R224): acknowledges the update flag; the handler returns. -/
def phaseO2 (s : State) : Out State :=
  match s.tracker? s.ic.t with
  | some p => .next (leaveHandler (s.setTracker s.ic.t { p with uif := false }))
  | none => notTaken s

/-- `SETPOS t, target` (R225). -/
def execSetpos (t : BitVec 8) (target : BitVec 32) (s : State) : Out State :=
  trackerCommand s t (fun p => needsInited p (
    .next { s with nc := { s.nc with op := .setpos, t := t.toNat, val := target, pc := .s1 } }))

/-- Phase `S1` (R226): direction, decomposition, write of the extension. -/
def phaseS1 (s : State) : Out State :=
  match s.tracker? s.nc.t with
  | some p =>
    let tp := directed p.dir s.nc.val.toInt
    let s1 := s.setTracker s.nc.t { p with ext := extOf tp }
    .next { s1 with nc := { s.nc with e := cntOf tp, pc := .s2 } }
  | none => notTaken s

/-- Phase `S2` (R227): loads the hardware counter and responds. -/
def phaseS2 (s : State) : Out State :=
  match s.tracker? s.nc.t with
  | some p => .next (respond (s.setTracker s.nc.t { p with cnt := s.nc.e }) statusOk 0)
  | none => notTaken s

/-- `GETPOS t` (R228). -/
def execGetpos (t : BitVec 8) (s : State) : Out State :=
  trackerCommand s t (fun p => needsInited p (
    .next { s with nc := { s.nc with op := .getpos, t := t.toNat, pc := .g1 } }))

/-- Phase `G1` (R229): latches the field that `GETPOS_ORDER` reads first. -/
def phaseG1 (s : State) : Out State :=
  match s.tracker? s.nc.t with
  | some p =>
    .next { s with nc := { s.nc with
      e := match s.cfg.getposOrder with
        | .extFirst => p.ext
        | .cntFirst => p.cnt
      pc := .g2 } }
  | none => notTaken s

/-- The sum phase `G2` forms from the latched field and the other one as it is now (R229). -/
def rawAtG2 (o : GetposOrder) (e : BitVec 16) (p : Tracker) : Int :=
  match o with
  | .extFirst => rawPos e p.cnt
  | .cntFirst => rawPos p.ext e

/-- Phase `G2` (R229): reads the other field, applies the direction, responds. -/
def phaseG2 (s : State) : Out State :=
  match s.tracker? s.nc.t with
  | some p => .next (respond s statusOk (posValue (directed p.dir (rawAtG2 s.cfg.getposOrder s.nc.e p))))
  | none => notTaken s

/-- `SETDIR t, sign` (R230). -/
def execSetdir (t : BitVec 8) (sign : Dir) (s : State) : Out State :=
  trackerCommand s t (fun p => .next (respond (s.setTracker t.toNat { p with dir := sign }) statusOk 0))

end Sys2Proof.Machine
end

