-- ==== Sys2Proof/Machine/Receive.lean ====
section
/-! DEFINITION. RXFD, the idle-line frame detector and receive FIFO (41_receive): `LINEB`, `LIDLE`, `DRXB`, `IRQIDLE`, `IRQRXNE`,
`IRQORE`, `EQDISP`, `RXPOP`, and the phases `I1` to `I7`, `N1`, `E1`. -/

namespace Sys2Proof.Machine

/-- `LINEB b` (R180): a byte arrives; a second one before the first is taken raises overrun and is lost. -/
def execLineb (b : Byte) (s : State) : Out State :=
  if s.serialOn then
    if s.rx.rxne then .next { s with rx := { s.rx with ore := true } }
    else .next { s with rx := { s.rx with rdr := b, rxne := true } }
  else notTaken s

/-- `LIDLE` (R181): the idle-line flag rises. -/
def execLidle (s : State) : Out State :=
  if s.serialOn then .next { s with rx := { s.rx with idle := true } } else notTaken s

/-- The remaining count after one byte: down by one, reloaded instead of reaching 0 (R182). -/
def nextDrxRem (cap rem : Nat) : Nat := if rem = 1 then cap else rem - 1

/-- `DRXB` (R182): the receive DMA engine moves the received byte into the scratch buffer. -/
def execDrxb (s : State) : Out State :=
  if s.drxbReady then
    match memWrite s .scr (s.cfg.scratchCap - s.rx.drx.rem) s.rx.rdr with
    | .error e => .fault e
    | .ok s1 =>
      .next { s1 with rx := { s1.rx with
        rxne := false
        drx := { s1.rx.drx with rem := nextDrxRem s1.cfg.scratchCap s1.rx.drx.rem } } }
  else notTaken s

/-- `IRQIDLE` (R183): dispatch of the idle-line interrupt. -/
def execIrqidle (s : State) : Out State :=
  if s.dispatchReady .idle && s.irqRequested .idle then .next (enterHandler s .idle .i1) else notTaken s

/-- Phase `I1` (R184): sets the Frame Signal; byte mode goes on at `I6`. -/
def phaseI1 (s : State) : Out State :=
  .next (setIcPc { s with rx := { s.rx with frame := true } } (match s.cfg.rxMode with
    | .dma => .i2
    | .byte => .i6))

/-- Phase `I2` (R185): stops the receive DMA engine and computes the received length. -/
def phaseI2 (s : State) : Out State :=
  .next { s with
    rx := { s.rx with drx := { s.rx.drx with en := false } }
    ic := { s.ic with len := s.cfg.scratchCap - s.rx.drx.rem, pc := .i3 } }

/-- Phase `I3` (R186): resets the remaining count. -/
def phaseI3 (s : State) : Out State :=
  .next (setIcPc { s with rx := { s.rx with drx := { s.rx.drx with rem := s.cfg.scratchCap } } } .i4)

/-- Phase `I4` (R187): copies the received bytes into the ring. -/
def phaseI4 (s : State) : Out State :=
  match copyFrame s 0 s.ic.len with
  | .error e => .fault e
  | .ok s1 => .next (setIcPc s1 .i5)

/-- Phase `I5` (R188): restarts the receive DMA engine. -/
def phaseI5 (s : State) : Out State :=
  .next (setIcPc { s with rx := { s.rx with drx := { s.rx.drx with en := true } } } .i6)

/-- Phase `I6` (R189): acknowledges the idle-line flag. -/
def phaseI6 (s : State) : Out State := .next (setIcPc { s with rx := { s.rx with idle := false } } .i7)

/-- Phase `I7` (R190): a registered callback is enqueued, or invoked in interrupt context; the handler returns. -/
def phaseI7 (s : State) : Out State :=
  .next (leaveHandler (
    if s.rx.cbReg then
      if s.rx.qAtt then { s with evq := s.evq + 1 } else logCb s .interrupt
    else s))

/-- `IRQRXNE` (R191): dispatch of the received-byte interrupt. -/
def execIrqrxne (s : State) : Out State :=
  if s.dispatchReady .rxne && s.irqRequested .rxne then .next (enterHandler s .rxne .n1) else notTaken s

/-- Phase `N1` (R191): copies the received byte into the ring; the handler returns. -/
def phaseN1 (s : State) : Out State :=
  match ringPush s s.rx.rdr with
  | .error e => .fault e
  | .ok s1 => .next (leaveHandler { s1 with rx := { s1.rx with rxne := false } })

/-- `IRQORE` (R192): dispatch of the overrun interrupt. -/
def execIrqore (s : State) : Out State :=
  if s.dispatchReady .ore && s.irqRequested .ore then .next (enterHandler s .ore .e1) else notTaken s

/-- Phase `E1` (R192): acknowledges the overrun flag and nothing else; the handler returns. -/
def phaseE1 (s : State) : Out State := .next (leaveHandler { s with rx := { s.rx with ore := false } })

/-- `EQDISP` (R194, 30_encoding R127): the event queue dispatches one deferred callback. -/
def execEqdisp (s : State) : Out State :=
  if s.eqdispReady then .next (logCb { s with evq := s.evq - 1 } .normal) else notTaken s

/-- `RXPOP` (R196): reads one byte from the ring. -/
def execRxpop (s : State) : Out State :=
  whenReady s (needsUart s (
    if s.rx.rd = s.rx.wr then .next (respond s statusOk 0)
    else
      match memRead s .ring s.rx.rd with
      | .error e => .fault e
      | .ok b =>
        .next (respond { s with rx := { s.rx with rd := (s.rx.rd + 1) % s.cfg.ringCap } } statusOk (popValue b))))

end Sys2Proof.Machine
end

