-- ==== Sys2Proof/Machine/Transmit.lean ====
section
/-! DEFINITION. TXARB, the double-buffered transmit arbiter (40_transmit): `WRITE`, `ISBUSY`, the phases `W0`, `WS`, `W1` to
`W5`, `B0` to `B2`, `T1` to `T6`, and `DTXB`, `LTC`, `LTXE`, `IRQTXC`. A phase is executed only while `NCSTEP` or `ICSTEP` is
enabled (`Sequencer.lean`), so a phase states its effect alone. -/

namespace Sys2Proof.Machine

/-- `WRITE` (R141): latches the payload and goes to the first phase of the transmit mode. It takes the first `n` bytes waiting on the
payload port, bytes that an earlier `WRITE` word left there among them: DESIGN CHOICE (entries 3, 27). -/
def execWrite (n : BitVec 32) (s : State) : Out State :=
  whenReady s (needsUart s (
    if s.payloadThere n then
      .next { s.dropPayload n with nc := { s.nc with
        op := .write, data := s.payload n, ip := 0, rem := n.toNat
        pc := match s.cfg.txMode with
          | .dma => .w0
          | .irq => .b0 } }
    else notTaken s))

/-- `ISBUSY` (R156): the in-flight flag in DMA mode, always busy in the non-DMA mode. -/
def execIsbusy (s : State) : Out State :=
  whenReady s (needsUart s (.next (respond s statusOk (match s.cfg.txMode with
    | .irq => boolValue true
    | .dma => boolValue s.tx.inFlight))))

/-- Phase `W0` (R142): the loop test. -/
def phaseW0 (s : State) : Out State :=
  if s.nc.rem = 0 then .next (respond s statusOk 0) else .next (setNcPc s .ws)

/-- The Buffer phase `WS` takes: Buffer 0 when it is selectable, else Buffer 1 (R143). -/
def State.chosen (s : State) : BufId := if s.selectable .b0 then .b0 else .b1

/-- Phase `WS` (R143): buffer selection; with `FUSE_SELECT_BUSY` the busy flag is set in the same step. -/
def phaseWS (s : State) : Out State :=
  let i := s.chosen
  let s1 := { s with nc := { s.nc with tgt := i } }
  if s.cfg.fuseSelectBusy then .next (setNcPc (s1.setBuf i { s1.buf i with busy := true }) .w2)
  else .next (setNcPc s1 .w1)

/-- Phase `W1` (R144): sets the target's busy flag. -/
def phaseW1 (s : State) : Out State :=
  .next (setNcPc (s.setBuf s.nc.tgt { s.buf s.nc.tgt with busy := true }) .w2)

/-- Phase `W2` (R145): the available space and the chunk size. -/
def phaseW2 (s : State) : Out State :=
  let space := s.cfg.txCap - (s.buf s.nc.tgt).fill
  .next { s with nc := { s.nc with space := space, chunk := min space s.nc.rem, pc := .w3 } }

/-- The bytes phase `W3` copies: `nc.chunk` of them from the input cursor on (R146). -/
def Nc.chunkBytes (n : Nc) : List Byte := (n.data.drop n.ip).take n.chunk

/-- Phase `W3` (R146): copies the chunk into the target's storage at its fill cursor and advances the cursors. -/
def phaseW3 (s : State) : Out State :=
  let f := (s.buf s.nc.tgt).fill
  if s.nc.chunkBytes.length = s.nc.chunk then
    match memWriteBytes s s.nc.tgt.space f s.nc.chunkBytes with
    | .error e => .fault e
    | .ok s1 =>
      let s2 := s1.setBuf s.nc.tgt { s1.buf s.nc.tgt with fill := f + s.nc.chunk }
      .next { s2 with nc := { s.nc with ip := s.nc.ip + s.nc.chunk, rem := s.nc.rem - s.nc.chunk, pc := .w4 } }
  else .fault (.payloadIndexOutOfRange (s.nc.ip + s.nc.chunkBytes.length))

/-- Phase `W4` (R147): starts the target's transfer if none is in flight. -/
def phaseW4 (s : State) : Out State :=
  if s.tx.inFlight then .next (setNcPc s .w5)
  else
    let s1 := startTransfer s s.nc.tgt
    .next (setNcPc { s1 with tx := { s1.tx with inFlight := true } } .w5)

/-- Phase `W5` (R148): clears the target's busy flag. -/
def phaseW5 (s : State) : Out State :=
  .next (setNcPc (s.setBuf s.nc.tgt { s.buf s.nc.tgt with busy := false }) .w0)

/-- Phase `B0` (R149): the loop test of the non-DMA mode. -/
def phaseB0 (s : State) : Out State :=
  if s.nc.rem = 0 then .next (respond s statusOk 0) else .next (setNcPc s .b1)

/-- Phase `B1` (R150): held until `tx.txe = 1`. -/
def phaseB1 (s : State) : Out State := .next (setNcPc s .b2)

/-- Phase `B2` (R151): writes one byte to the transmit data register. -/
def phaseB2 (s : State) : Out State :=
  match s.nc.data[s.nc.ip]? with
  | some b =>
    .next { s with
      tx := { s.tx with tdr := b, txe := false, tc := false }
      nc := { s.nc with ip := s.nc.ip + 1, rem := s.nc.rem - 1, pc := .b0 } }
  | none => .fault (.payloadIndexOutOfRange s.nc.ip)

/-- `DTXB` (R152): the transmit DMA engine moves one byte to the serial transmitter. -/
def execDtxb (s : State) : Out State :=
  match s.tx.dtx.src with
  | none => notTaken s
  | some i =>
    if s.dtxbReady then
      match memRead s i.space (s.tx.dtx.len - s.tx.dtx.rem) with
      | .error e => .fault e
      | .ok b =>
        let s1 := emitTx s b
        .next { s1 with tx := { s1.tx with
          dtx := { s.tx.dtx with rem := s.tx.dtx.rem - 1 }
          tc := false
          tcif := s.tx.tcif || s.tx.dtx.rem - 1 = 0 } }
    else notTaken s

/-- `LTC` (R153): the transmit-complete flag rises. -/
def execLtc (s : State) : Out State :=
  if s.ltcReady then .next { s with tx := { s.tx with tc := true } } else notTaken s

/-- `LTXE` (R154): the transmitter takes `tx.tdr` and the transmit-empty flag rises. -/
def execLtxe (s : State) : Out State :=
  if s.ltxeReady then
    let s1 := emitTx s s.tx.tdr
    .next { s1 with tx := { s1.tx with txe := true } }
  else notTaken s

/-- `IRQTXC` (R155): dispatch of the completion interrupt. -/
def execIrqtxc (s : State) : Out State :=
  if s.dispatchReady .txc && s.irqRequested .txc then .next (enterHandler s .txc .t1) else notTaken s

/-- Phase `T1` (R160): stops the DMA engine and acknowledges the completion flag. -/
def phaseT1 (s : State) : Out State :=
  .next (setIcPc { s with tx := { s.tx with dtx := { s.tx.dtx with en := false }, tcif := false } } .t2)

/-- Phase `T2` (R161): which Buffer finished; an address that is neither Buffer's raises `ChannelMismatch`. -/
def phaseT2 (s : State) : Out State :=
  match s.tx.dtx.src with
  | some i => .next { s with ic := { s.ic with done := i, pc := .t3 } }
  | none => .next (raiseChannelMismatch s)

/-- Phase `T3` (R162): resets the fill cursor of the Buffer that finished. -/
def phaseT3 (s : State) : Out State :=
  .next (setIcPc (s.setBuf s.ic.done { s.buf s.ic.done with fill := 0 }) .t4)

/-- Phase `T4` tests the other Buffer: queued bytes and not busy (R163). -/
def State.otherReady (s : State) : Bool := (s.buf s.ic.done.other).fill != 0 && !(s.buf s.ic.done.other).busy

/-- Phase `T4` (R163): starts the other Buffer's transfer if it has queued bytes and is not busy. -/
def phaseT4 (s : State) : Out State :=
  if s.otherReady then .next (setIcPc (startTransfer s s.ic.done.other) .t6) else .next (setIcPc s .t5)

/-- Phase `T5` (R164): clears the in-flight flag. -/
def phaseT5 (s : State) : Out State := .next (setIcPc { s with tx := { s.tx with inFlight := false } } .t6)

/-- Phase `T6` (R165): with half duplex, held until `tx.tc = 1` and no chained transfer has bytes to move (`State.icHeld`, 90_conflicts
C8; entry 28), then the line goes to receive; the handler returns. -/
def phaseT6 (s : State) : Out State :=
  .next (leaveHandler (if s.tx.hd then { s with tx := { s.tx with de := .rx } } else s))

end Sys2Proof.Machine
end

