-- ==== Sys2Proof/Machine/Sequencer.lean ====
section
/-! DEFINITION. The two sequencer steps (30_encoding R125, R126): `NCSTEP` and `ICSTEP` execute exactly the one phase that
`nc.pc` or `ic.pc` names. -/

namespace Sys2Proof.Machine

/-- The phase rule of a `WRITE` in progress (30_encoding R125). -/
def writePhase (s : State) : Out State :=
  match s.nc.pc with
  | .w0 => phaseW0 s
  | .ws => phaseWS s
  | .w1 => phaseW1 s
  | .w2 => phaseW2 s
  | .w3 => phaseW3 s
  | .w4 => phaseW4 s
  | .w5 => phaseW5 s
  | .b0 => phaseB0 s
  | .b1 => phaseB1 s
  | .b2 => phaseB2 s
  | .s1 | .s2 | .g1 | .g2 => notTaken s

/-- The phase rule that `nc.op` and `nc.pc` name (30_encoding R125). -/
def ncPhase (s : State) : Out State :=
  match s.nc.op with
  | .none => notTaken s
  | .write => writePhase s
  | .setpos =>
    match s.nc.pc with
    | .s1 => phaseS1 s
    | .s2 => phaseS2 s
    | .w0 | .ws | .w1 | .w2 | .w3 | .w4 | .w5 | .b0 | .b1 | .b2 | .g1 | .g2 => notTaken s
  | .getpos =>
    match s.nc.pc with
    | .g1 => phaseG1 s
    | .g2 => phaseG2 s
    | .w0 | .ws | .w1 | .w2 | .w3 | .w4 | .w5 | .b0 | .b1 | .b2 | .s1 | .s2 => notTaken s

/-- The phase rule that `ic.pc` names (30_encoding R126); `ic.h.hasPhase ic.pc` says it is one of the active handler's. -/
def icPhase (s : State) : Out State :=
  match s.ic.pc with
  | .t1 => phaseT1 s
  | .t2 => phaseT2 s
  | .t3 => phaseT3 s
  | .t4 => phaseT4 s
  | .t5 => phaseT5 s
  | .t6 => phaseT6 s
  | .i1 => phaseI1 s
  | .i2 => phaseI2 s
  | .i3 => phaseI3 s
  | .i4 => phaseI4 s
  | .i5 => phaseI5 s
  | .i6 => phaseI6 s
  | .i7 => phaseI7 s
  | .n1 => phaseN1 s
  | .e1 => phaseE1 s
  | .o1 => phaseO1 s
  | .o2 => phaseO2 s

/-- `NCSTEP` (30_encoding R125). -/
def execNcstep (s : State) : Out State := if s.ncstepReady then ncPhase s else notTaken s

/-- `ICSTEP` (30_encoding R126). -/
def execIcstep (s : State) : Out State := if s.icstepReady then icPhase s else notTaken s

end Sys2Proof.Machine
end

