-- ==== Sys2Proof/Machine/Dispatch.lean ====
section
/-! DEFINITION. The meaning of every label: one arm per constructor. -/

namespace Sys2Proof.Machine

def exec (i : Instr) (s : State) : Host.Outcome State Fault Refusal :=
  match i with
  | .init baud parity hd => Sys2Proof.Machine.execInit baud parity hd s
  | .write n => Sys2Proof.Machine.execWrite n s
  | .isbusy => Sys2Proof.Machine.execIsbusy s
  | .chkfrm => Sys2Proof.Machine.execChkfrm s
  | .setrxcb cb q => Sys2Proof.Machine.execSetrxcb cb q s
  | .rxpop => Sys2Proof.Machine.execRxpop s
  | .posinit t => Sys2Proof.Machine.execPosinit t s
  | .initall => Sys2Proof.Machine.execInitall s
  | .setdir t sign => Sys2Proof.Machine.execSetdir t sign s
  | .setpos t target => Sys2Proof.Machine.execSetpos t target s
  | .getpos t => Sys2Proof.Machine.execGetpos t s
  | .ncstep => Sys2Proof.Machine.execNcstep s
  | .icstep => Sys2Proof.Machine.execIcstep s
  | .eqdisp => Sys2Proof.Machine.execEqdisp s
  | .dtxb => Sys2Proof.Machine.execDtxb s
  | .ltc => Sys2Proof.Machine.execLtc s
  | .ltxe => Sys2Proof.Machine.execLtxe s
  | .lineb b => Sys2Proof.Machine.execLineb b s
  | .drxb => Sys2Proof.Machine.execDrxb s
  | .lidle => Sys2Proof.Machine.execLidle s
  | .cntup t => Sys2Proof.Machine.execCntup t s
  | .cntdn t => Sys2Proof.Machine.execCntdn t s
  | .irqtxc => Sys2Proof.Machine.execIrqtxc s
  | .irqidle => Sys2Proof.Machine.execIrqidle s
  | .irqrxne => Sys2Proof.Machine.execIrqrxne s
  | .irqore => Sys2Proof.Machine.execIrqore s
  | .irqovf t => Sys2Proof.Machine.execIrqovf t s

end Sys2Proof.Machine
end

