-- ==== Sys2Proof/Machine/Step.lean ====
section
/-! DEFINITION. One step of the machine: what comes next to the block is taken from its port, decoded and executed
(00_scope R19, 30_encoding opening paragraph, entry 2). -/

namespace Sys2Proof.Machine

/-- One step. With nothing at the port the block executes nothing (70_reset_and_hazards R301) and the state stays. -/
def step (s : State) : Host.Outcome State Fault Refusal :=
  match configRefusal s.cfg with
  | some r => .refused r
  | none =>
    match fetchEvent s with
    | none => .next s
    | some (.rst, s1) => .next (resetBlock s1)
    | some (.label w, s1) =>
      match decode w with
      | .ok i => exec i s1
      | .error e => illegalWord w e s1

/-- The payload of zeros that a `WRITE` word asks for; nothing for any other word. -/
def zeroPayload (w : LabelWord) : List Byte :=
  if opField w = Op.write.code then List.replicate (argField w).toNat 0 else []

/-- `s` with the word presented next on the command port, and a `WRITE` word's payload of zeros on the payload port. -/
def State.withFetchWord (s : State) (nbits w : Nat) : State :=
  { s with inp :=
    { events := .label (tableWord nbits w) :: s.inp.events
      wdata := zeroPayload (tableWord nbits w) ++ s.inp.wdata } }

end Sys2Proof.Machine
end

