-- ==== Sys2Proof/Machine/Enabled.lean ====
section
/-! DEFINITION. The enabling condition of every label (00_scope R19), as its rule gives it. The meanings test the same conditions;
this file collects them so that a claim can speak of the enabled labels of a state. -/

namespace Sys2Proof.Machine

/-- The label is enabled in the state (00_scope R19; the rules named in 30_encoding R118). -/
def enabled (i : Instr) (s : State) : Bool :=
  match i with
  | .init _ _ _ => s.cmdReady && !s.uartInit
  | .write n => s.cmdReady && s.uartInit && s.payloadThere n
  | .isbusy => s.cmdReady && s.uartInit
  | .chkfrm => s.cmdReady && s.uartInit
  | .setrxcb _ _ => s.cmdReady
  | .rxpop => s.cmdReady && s.uartInit
  | .posinit t => s.cmdReady && (s.tracker? t.toNat).isSome
  | .initall => s.cmdReady
  | .setdir t _ => s.cmdReady && (s.tracker? t.toNat).isSome
  | .setpos t _ => s.cmdReady && (s.tracker? t.toNat).any (fun p => p.inited)
  | .getpos t => s.cmdReady && (s.tracker? t.toNat).any (fun p => p.inited)
  | .ncstep => s.ncstepReady
  | .icstep => s.icstepReady
  | .eqdisp => s.eqdispReady
  | .dtxb => s.dtxbReady && s.tx.dtx.src.isSome
  | .ltc => s.ltcReady
  | .ltxe => s.ltxeReady
  | .lineb _ => s.serialOn
  | .drxb => s.drxbReady
  | .lidle => s.serialOn
  | .cntup t => s.fault = .none && (s.tracker? t.toNat).any (fun p => p.inited)
  | .cntdn t => s.fault = .none && (s.tracker? t.toNat).any (fun p => p.inited)
  | .irqtxc => s.dispatchReady .txc && s.irqRequested .txc
  | .irqidle => s.dispatchReady .idle && s.irqRequested .idle
  | .irqrxne => s.dispatchReady .rxne && s.irqRequested .rxne
  | .irqore => s.dispatchReady .ore && s.irqRequested .ore
  | .irqovf t => s.dispatchReady .ovf && (s.tracker? t.toNat).any (fun p => p.inited && p.uif)

end Sys2Proof.Machine
end

