-- ==== Sys2Proof/Machine/Ports.lean ====
section
/-! DEFINITION. The block's ports (30_encoding R116, R117): the level wires as functions of the state, and the strobes and data
words that one label puts on the ports, as a function of the label and the states before and after it. They hold no state of their
own and no rule reads them (entry 25). -/

namespace Sys2Proof.Machine

/-- The number that spells the fault record (60_exceptions R266). -/
def FaultRec.code : FaultRec → BitVec 8
  | .none => 0x00
  | .channelMismatch => 0x01

/-- `dtx_src`: 0 is `B0`, 1 is `B1`, 2 is `NONE` (30_encoding R116). -/
def dtxSrcWire : Option BufId → BitVec 2
  | some .b0 => 0
  | some .b1 => 1
  | none => 2

/-- The level wires of 30_encoding R116. -/
structure Wires where
  cmdReady : Bool
  dtxEn : Bool
  dtxSrc : BitVec 2
  dtxLen : Nat
  dtxRem : Nat
  dtxTcif : Bool
  serTc : Bool
  serTxe : Bool
  serTdr : Byte
  /-- 0 is receive, 1 is transmit -/
  serDe : Bool
  serRdr : Byte
  serRxne : Bool
  serIdle : Bool
  serOre : Bool
  drxEn : Bool
  drxRem : Nat
  cnt : List (BitVec 16)
  uif : List Bool
  deriving DecidableEq, Repr

/-- The level wires in a state. -/
def State.wires (s : State) : Wires :=
  { cmdReady := s.cmdReady
    dtxEn := s.tx.dtx.en, dtxSrc := dtxSrcWire s.tx.dtx.src, dtxLen := s.tx.dtx.len, dtxRem := s.tx.dtx.rem
    dtxTcif := s.tx.tcif, serTc := s.tx.tc, serTxe := s.tx.txe, serTdr := s.tx.tdr, serDe := s.tx.de = .tx
    serRdr := s.rx.rdr, serRxne := s.rx.rxne, serIdle := s.rx.idle, serOre := s.rx.ore
    drxEn := s.rx.drx.en, drxRem := s.rx.drx.rem
    cnt := s.pos.map (fun p => p.cnt), uif := s.pos.map (fun p => p.uif) }

/-- The strobes and data words of 30_encoding R116. -/
structure Strobes where
  /-- `resp`, `resp_valid` -/
  resp : Option RespWord
  /-- `diag`, `diag_valid` -/
  diag : Option (BitVec 8)
  cbNow : Bool
  evqPush : Bool
  evqPop : Bool
  dtxTcifClr : Bool
  /-- `dtx_addr`, `dtx_rdata` -/
  dtxRead : Option (Nat × Byte)
  serTdrWr : Bool
  serRxneClr : Bool
  serIdleClr : Bool
  serOreClr : Bool
  drxRemLoad : Bool
  /-- `drx_addr`, `drx_wdata`, `drx_wr` -/
  drxWrite : Option (Nat × Byte)
  /-- the tracker and the value of `cnt_load[t]`, `cnt_wdata[t]` -/
  cntLoad : Option (Nat × BitVec 16)
  /-- the tracker of `uif_clr[t]` -/
  uifClr : Option Nat
  deriving DecidableEq, Repr

/-- The last element of a log that has grown. -/
def grown {α : Type} (before after : List α) : Option α :=
  if before.length < after.length then after.getLast? else none

/-- The label is an `NCSTEP` that executes phase `p`. -/
def ncTakes (i : Instr) (s : State) (p : NcPhase) : Bool := i = .ncstep && s.ncstepReady && s.nc.pc = p

/-- The label is an `ICSTEP` that executes phase `p`. -/
def icTakes (i : Instr) (s : State) (p : IcPhase) : Bool := i = .icstep && s.icstepReady && s.ic.pc = p

/-- The label is an `INIT` that is accepted (44_init_config R250). -/
def initTakes (i : Instr) (s : State) : Bool :=
  match i with
  | .init _ _ _ => s.cmdReady && !s.uartInit
  | .write _ | .isbusy | .chkfrm | .setrxcb _ _ | .rxpop
  | .posinit _ | .initall | .setdir _ _ | .setpos _ _ | .getpos _
  | .ncstep | .icstep | .eqdisp | .dtxb | .ltc | .ltxe | .lineb _ | .drxb | .lidle | .cntup _ | .cntdn _
  | .irqtxc | .irqidle | .irqrxne | .irqore | .irqovf _ => false

/-- The block loads the receive engine's remaining count with `SCRATCHCAP`: an accepted `INIT` with `RX_MODE = DMA`
(44_init_config R250) and phase `I3` (41_receive R186). The reload in `DRXB` is the engine's own. -/
def drxRemLoads (i : Instr) (s : State) : Bool := (initTakes i s && s.cfg.rxMode = .dma) || icTakes i s .i3

/-- What the label `i`, taken in `s` and leading to `t`, puts on the ports. -/
def strobes (i : Instr) (s t : State) : Strobes :=
  { resp := grown s.obs.resp t.obs.resp
    diag := grown s.obs.diagLog t.obs.diagLog
    cbNow := grown s.obs.cbLog t.obs.cbLog = some .interrupt
    evqPush := s.evq < t.evq
    evqPop := t.evq < s.evq
    dtxTcifClr := icTakes i s .t1
    dtxRead :=
      if i = .dtxb then (grown s.obs.txStream t.obs.txStream).map (fun b => (s.tx.dtx.len - s.tx.dtx.rem, b)) else none
    serTdrWr := ncTakes i s .b2
    serRxneClr := s.rx.rxne && !t.rx.rxne
    serIdleClr := icTakes i s .i6
    serOreClr := icTakes i s .e1
    drxRemLoad := drxRemLoads i s
    drxWrite :=
      if i = .drxb && s.drxbReady then some (s.cfg.scratchCap - s.rx.drx.rem, s.rx.rdr) else none
    cntLoad := if ncTakes i s .s2 then some (s.nc.t, s.nc.e) else none
    uifClr := if icTakes i s .o2 then some s.ic.t else none }

end Sys2Proof.Machine
end

