-- ==== Sys2Proof/Safety.lean ====
section
/-! DEFINITION. What counts as a safe run and the terms the claims use: quiescence (00_scope R22), runs of labels (00_scope R19), the
places a label stores to (20_memory R96), and the invariants of 10_state R59. -/

namespace Sys2Proof.Machine

/-! ### Runs -/

/-- The state is quiescent (00_scope R22). -/
def State.quiescent (s : State) : Bool :=
  s.nc.op = .none && s.ic.h = .none && !s.tx.tcif && !s.rx.idle && !s.rx.rxne && !s.rx.ore
    && s.pos.all (fun p => !p.uif) && !s.tx.inFlight && !s.tx.dtx.en && s.evq = 0 && s.fault = .none

/-- Executes labels one after the other, stopping at the first fault or refusal: a run as a sequence of labels
(00_scope R19). -/
def runLabels : List Instr → State → Out State
  | [], s => .next s
  | i :: is, s =>
    match exec i s with
    | .next t => runLabels is t
    | .fault f => .fault f
    | .refused r => .refused r

/-- The labels of `FRAME [bs]` when `RX_MODE = DMA` (30_encoding R129). -/
def frameLabels (bs : List Byte) : List Instr :=
  bs.flatMap (fun b => [.lineb b, .drxb]) ++ ([.lidle, .irqidle] ++ List.replicate 7 .icstep)

/-! ### Where a sequencer stands -/

/-- `cmd_ready` (30_encoding R116), as a proposition. -/
abbrev CommandPortReady (s : State) : Prop := s.nc.op = .none ∧ s.ic.h = .none ∧ s.fault = .none

/-- Normal context, no fault, the command `op` in progress at phase `p` (30_encoding R125). -/
abbrev NormalAt (s : State) (op : NcOp) (p : NcPhase) : Prop :=
  s.ic.h = .none ∧ s.fault = .none ∧ s.nc.op = op ∧ s.nc.pc = p

/-- Handler `h` active at phase `p`, no fault (30_encoding R126). -/
abbrev HandlerAt (s : State) (h : Handler) (p : IcPhase) : Prop := s.fault = .none ∧ s.ic.h = h ∧ s.ic.pc = p

/-- The default `IRQ_PRIO`: any pending source may be dispatched next (60_exceptions R272). -/
abbrev PriorityFree (s : State) : Prop := s.cfg.irqPrio.order = []

/-! ### Stores -/

/-- The label stores to index `a` of the space: the effective indices of 20_memory R96. -/
def storesTo (i : Instr) (s : State) (sp : Space) (a : Nat) : Prop :=
  match i with
  | .ncstep =>
    s.ncstepReady = true ∧ s.nc.pc = .w3 ∧ sp = s.nc.tgt.space
      ∧ (s.buf s.nc.tgt).fill ≤ a ∧ a < (s.buf s.nc.tgt).fill + s.nc.chunk
  | .icstep =>
    s.icstepReady = true ∧ sp = .ring
      ∧ ((s.ic.pc = .i4 ∧ ∃ k, k < s.ic.len ∧ a = (s.rx.wr + k) % s.cfg.ringCap) ∨ (s.ic.pc = .n1 ∧ a = s.rx.wr))
  | .drxb => s.drxbReady = true ∧ sp = .scr ∧ a = s.cfg.scratchCap - s.rx.drx.rem
  | .init _ _ _ | .write _ | .isbusy | .chkfrm | .setrxcb _ _ | .rxpop
  | .posinit _ | .initall | .setdir _ _ | .setpos _ _ | .getpos _ | .eqdisp
  | .dtxb | .ltc | .ltxe | .lineb _ | .lidle | .cntup _ | .cntdn _
  | .irqtxc | .irqidle | .irqrxne | .irqore | .irqovf _ => False

/-! ### Invariants -/

/-- The byte at the index has been written since reset. -/
abbrev Written (s : State) (sp : Space) (a : Nat) : Prop := (s.readByte sp a).isSome = true

/-- A configuration of the spec, with its trackers and its registry (00_scope R5 to R12; 10_state R51). -/
structure ShapeOk (s : State) : Prop where
  cfg : s.cfg.ok = true
  trackers : s.pos.length = s.cfg.ntrk
  regCount : s.reg.n = s.cfg.ntrk
  regSlots : s.reg.slots = List.range s.cfg.ntrk

/-- Every memory is in its canonical form and holds bytes only at indices it has (20_memory R80, R84). -/
structure MemoryOk (s : State) : Prop where
  canonical : ∀ sp, (s.mem sp).wf = true
  inRange : ∀ sp a, Written s sp a → a < capacityOf s.cfg sp

/-- The transmit side (10_state R31, R32, R34, R59 (a), (f), (g); 40_transmit R145, R146, R161). -/
structure TransmitOk (s : State) : Prop where
  /-- R5 -/
  cap : 1 ≤ s.cfg.txCap
  /-- R59 (a) -/
  fill : ∀ i, (s.buf i).fill ≤ s.cfg.txCap
  /-- below a fill cursor every byte was written (R30) -/
  queued : ∀ i a, a < (s.buf i).fill → Written s i.space a
  /-- R59 (f) -/
  remLen : s.tx.dtx.rem ≤ s.tx.dtx.len
  /-- R59 (f) -/
  lenCap : s.tx.dtx.len ≤ s.cfg.txCap
  /-- the bytes of the active channel's transfer were written (R30) -/
  draining : ∀ i a, s.tx.dtx.src = some i → a < s.tx.dtx.len → Written s i.space a
  /-- a transfer in flight has a source (R161) -/
  source : s.tx.inFlight = true → s.tx.dtx.src.isSome = true
  /-- R59 (g) -/
  idle : s.tx.inFlight = false → s.tx.dtx.en = false ∧ s.tx.tcif = false
  /-- `tx.tcif` is set by the last byte (R35, 60_exceptions R271) -/
  complete : s.tx.tcif = true → s.tx.dtx.rem = 0
  /-- the completion handler runs with the transfer still in flight until `T5` -/
  handlerInFlight : s.ic.h = .txc → s.ic.pc ≠ .t6 → s.tx.inFlight = true
  /-- after `T1` the engine is stopped and the flag acknowledged -/
  handlerStopped : s.ic.h = .txc → s.ic.pc ≠ .t1 → s.ic.pc ≠ .t6 → s.tx.dtx.en = false ∧ s.tx.tcif = false
  /-- the handler's phase is one of its own -/
  handlerPhase : s.ic.h = .txc → Handler.txc.hasPhase s.ic.pc = true
  /-- a command in progress stands at one of its phases -/
  ncPhase : s.nc.op ≠ .none → s.nc.op.hasPhase s.nc.pc = true
  /-- the input cursor and the remaining input make up the payload (R53) -/
  input : s.nc.op = .write → s.nc.ip + s.nc.rem = s.nc.data.length
  /-- past the loop test there is input left (R145) -/
  inputLeft : s.nc.op = .write → (s.nc.pc = .ws ∨ s.nc.pc = .w1 ∨ s.nc.pc = .w2 ∨ s.nc.pc = .b1 ∨ s.nc.pc = .b2) →
    1 ≤ s.nc.rem
  /-- the selected Buffer has spare capacity (R145) -/
  spare : s.nc.op = .write → (s.nc.pc = .w1 ∨ s.nc.pc = .w2) → (s.buf s.nc.tgt).fill < s.cfg.txCap
  /-- the chunk fits (R146) -/
  chunk : s.nc.op = .write → s.nc.pc = .w3 →
    1 ≤ s.nc.chunk ∧ s.nc.chunk ≤ s.nc.rem ∧ (s.buf s.nc.tgt).fill + s.nc.chunk ≤ s.cfg.txCap
  /-- a busy flag is set exactly while the producer fills that Buffer (R32) -/
  busy : ∀ i, (s.buf i).busy = true ↔
    s.nc.op = .write ∧ s.nc.tgt = i ∧ (s.nc.pc = .w2 ∨ s.nc.pc = .w3 ∨ s.nc.pc = .w4 ∨ s.nc.pc = .w5)

/-- The receive side (10_state R38 to R41, R59 (c), (d); 41_receive R185). -/
structure ReceiveOk (s : State) : Prop where
  /-- R6 -/
  cap : 1 ≤ s.cfg.scratchCap
  /-- R59 (c) -/
  remLow : 1 ≤ s.rx.drx.rem
  /-- R59 (c) -/
  remHigh : s.rx.drx.rem ≤ s.cfg.scratchCap
  /-- what the engine has stored since the count was reset was written (R38) -/
  stored : ∀ a, a < s.cfg.scratchCap - s.rx.drx.rem → Written s .scr a
  /-- the received length is that of written bytes (R38, 41_receive R185) -/
  length : s.ic.h = .idle → (s.ic.pc = .i3 ∨ s.ic.pc = .i4) →
    s.ic.len < s.cfg.scratchCap ∧ ∀ a, a < s.ic.len → Written s .scr a
  /-- R59 (d) -/
  wr : s.rx.wr < s.cfg.ringCap
  /-- R59 (d) -/
  rd : s.rx.rd < s.cfg.ringCap
  /-- the ring was written as far as the writer has come, or everywhere (93 U10) -/
  ring : (∀ a, a < s.cfg.ringCap → Written s .ring a) ∨
    (s.rx.rd ≤ s.rx.wr ∧ ∀ a, a < s.rx.wr → Written s .ring a)
  /-- the handler's phase is one of its own -/
  handlerPhase : s.ic.h ≠ .none → s.ic.h.hasPhase s.ic.pc = true

/-- The whole invariant, with the one fault absent (60_exceptions R266: unreachable from reset). -/
structure BlockOk (s : State) : Prop where
  shape : ShapeOk s
  memory : MemoryOk s
  transmit : TransmitOk s
  receive : ReceiveOk s
  noFault : s.fault = .none

/-- `Write` holds in `WS` and nothing is under way that could free a Buffer (70_reset_and_hazards R323, 93 U2). -/
structure HeldForGood (s : State) : Prop where
  writing : s.nc.op = .write
  selecting : s.nc.pc = .ws
  noneFree : ∀ i, s.selectable i = false
  stopped : s.tx.dtx.en = false
  noCompletion : s.tx.tcif = false
  noHandler : s.ic.h ≠ .txc

/-- A transfer of length 0 was started and nothing can complete it (70_reset_and_hazards R322, 93 U15). -/
structure StalledForGood (s : State) : Prop where
  inFlight : s.tx.inFlight = true
  nothingLeft : s.tx.dtx.rem = 0
  noCompletion : s.tx.tcif = false
  noHandler : s.ic.h ≠ .txc

end Sys2Proof.Machine
end

