-- ==== Sys2Proof/Certificates/Slice0/Obligations.lean ====
section
/-! DEFINITION. The statements for the provers. Each docstring names the rule of spec/ it formalises; a clause that rests on a choice of
the model names its log entry. -/

open Sys2Proof Sys2Proof.Machine

/-- Decode and encode agree on every label with every operand (30_encoding R110, R112, R118). -/
def Obligations.DecodeOfEncode : Prop :=
  ∀ i : Instr, decode (encode i) = .ok i

/-- No word is an alias: what a word decodes to encodes to that word (30_encoding R119). -/
def Obligations.EncodeOfDecode : Prop :=
  ∀ (w : LabelWord) (i : Instr), decode w = .ok i → encode i = w

/-- The decoder accepts exactly the words of 30_encoding R118 with the operand constraints of R120 (c), (d); the tracker bound (e)
is looked at in `exec` (entry 12, the model's choice of place). -/
def Obligations.SpelledWords : Prop :=
  ∀ w : LabelWord, (∃ i, decode w = .ok i) ↔
    ∃ o : Op, w &&& o.maskBits = o.matchBits
      ∧ (o = .init → (argField w).extractLsb' 29 2 ≠ 3)
      ∧ (o = .setdir → argField w = 0x00000001 ∨ argField w = 0xFFFFFFFF)

/-- A label word carried as six bytes, most significant first, is read back (20_memory R83). -/
def Obligations.BytesRoundTrip : Prop :=
  ∀ (i : Instr) (rest : List Byte), decodeBytes (encodeBytes i ++ rest) = .ok (i, rest)

/-- Words written out from 30_encoding R112, R118 (sanity). -/
def Obligations.TableWordsDecode : Prop :=
  decodeTableWord 48 0x0100A0002580 = some (.init 9600 .even true)
  ∧ decodeTableWord 48 0x050000000002 = some (.setrxcb false true)
  ∧ decodeTableWord 48 0x1301FFFF0000 = some (.setpos 1 0xFFFF0000)
  ∧ decodeTableWord 48 0x1200FFFFFFFF = some (.setdir 0 .reversed)
  ∧ decodeTableWord 48 0x410000000000 = some .icstep
  ∧ decodeTableWord 48 0x810000000000 = some .ltc
  ∧ decodeTableWord 48 0x900000000048 = some (.lineb 0x48)
  ∧ decodeTableWord 48 0xA10300000000 = some (.cntdn 3)
  ∧ decodeTableWord 48 0xC40100000000 = some (.irqovf 1)

/-- A step runs the decoded label (00_scope R19; that the run stands in `inp.events` is the model's choice, entry 2). -/
def Obligations.StepRunsDecodedLabel : Prop :=
  (∀ (s : State) (w : LabelWord) (es : List PortEvent) (i : Instr),
    s.cfg.ok = true → s.inp.events = .label w :: es → decode w = .ok i →
    step s = exec i { s with inp := { s.inp with events := es } })
  ∧ (∀ s : State, s.cfg.ok = true → s.inp.events = [] → step s = .next s)

/-- The answer to an illegal word (30_encoding R120). That it is not taken while `cmd_ready = 0` is read from 00_scope R19 (entry
12); the refusal of a word that is no label is entry 11; that an illegal `WRITE` word leaves its payload on the port is the
model's choice (entry 27). -/
def Obligations.IllegalWordAnswered : Prop :=
  ∀ (s : State) (w : LabelWord) (es : List PortEvent) (x : Illegal),
    s.cfg.ok = true → s.inp.events = .label w :: es → decode w = .error x →
    ((isHostClass w = true ∨ opOfCode? (opField w) = none) → CommandPortReady s →
      step s = .next (respond { s with inp := { s.inp with events := es } } 0xFF 0))
    ∧ ((isHostClass w = true ∨ opOfCode? (opField w) = none) → ¬ CommandPortReady s →
      step s = .next { s with inp := { s.inp with events := es } })
    ∧ (¬ (isHostClass w = true ∨ opOfCode? (opField w) = none) → step s = .refused .notALabel)

/-- 30_encoding R120 (e). What happens while `cmd_ready = 0` is entry 12; the refusal is entry 11. -/
def Obligations.TrackerOutOfRange : Prop :=
  ∀ (i : Instr) (t : BitVec 8) (s : State), i.tracker? = some t → s.cfg.ntrk ≤ t.toNat →
    (i.isHost = true → CommandPortReady s → exec i s = .next (respond s 0xFF 0))
    ∧ (i.isHost = true → ¬ CommandPortReady s → exec i s = .next s)
    ∧ (i.isHost = false → exec i s = .refused .notALabel)

/-- The primitive `respond` (00_scope R17, 30_encoding R114). -/
def Obligations.RespondDelivers : Prop :=
  ∀ (s : State) (status : BitVec 8) (value : BitVec 32), ∃ r : RespWord,
    respond s status value =
      { s with nc := { s.nc with op := .none }, obs := { s.obs with resp := s.obs.resp ++ [r] } }
    ∧ r.extractLsb' 32 8 = status ∧ r.extractLsb' 0 32 = value

/-- Reset (70_reset_and_hazards R300). The registers the spec gives no value (entries 5 to 7) are not spoken of; that the spec's
values are its own, `tx.tc` and `tx.txe` from general knowledge, is in entries 20 and 21. -/
def Obligations.RstPinResets : Prop :=
  ∀ (s : State) (es : List PortEvent), s.cfg.ok = true → s.inp.events = .rst :: es → ∃ t, step s = .next t
    ∧ t.cfg = s.cfg ∧ t.uartInit = false ∧ t.fault = .none ∧ t.evq = 0
    ∧ (∀ i, (t.buf i).fill = 0 ∧ (t.buf i).busy = false)
    ∧ t.tx.inFlight = false ∧ t.tx.dtx = { en := false, src := none, len := 0, rem := 0 }
    ∧ t.tx.tcif = false ∧ t.tx.tc = true ∧ t.tx.txe = true ∧ t.tx.hd = false ∧ t.tx.de = .rx
    ∧ t.rx.drx = { en := false, rem := s.cfg.scratchCap } ∧ t.rx.wr = 0 ∧ t.rx.rd = 0 ∧ t.rx.frame = false
    ∧ t.rx.rxne = false ∧ t.rx.idle = false ∧ t.rx.ore = false ∧ t.rx.cbReg = false ∧ t.rx.qAtt = false
    ∧ t.pos = List.replicate s.cfg.ntrk { cnt := 0, ext := 0, dir := .forward, uif := false, inited := false }
    ∧ t.reg = { n := s.cfg.ntrk, slots := List.range s.cfg.ntrk }
    ∧ t.nc.op = .none ∧ t.ic.h = .none ∧ t.obs = { txStream := [], cbLog := [], diagLog := [], resp := [] }
    ∧ (∀ sp a, t.readByte sp a = none)

/-- The state after reset as a host sees it (70_reset_and_hazards R301), which is quiescent (00_scope R22, from the values of
R300). That the reset values are the spec's own decision is entry 21. -/
def Obligations.ResetEnables : Prop :=
  ∀ (c : Cfg) (i : Instr),
    ((State.resetWith c).cmdReady = true ∧ (State.resetWith c).quiescent = true)
    ∧ (enabled i (State.resetWith c) = true ↔
      match i with
      | .init _ _ _ | .setrxcb _ _ | .initall => True
      | .posinit t | .setdir t _ => t.toNat < c.ntrk
      | .write _ | .isbusy | .chkfrm | .rxpop | .setpos _ _ | .getpos _ | .ncstep | .icstep | .eqdisp
      | .dtxb | .ltc | .ltxe | .lineb _ | .drxb | .lidle | .cntup _ | .cntdn _
      | .irqtxc | .irqidle | .irqrxne | .irqore | .irqovf _ => False)

/-- A label that is not enabled has no step (00_scope R19, R21 (b), (d); entry 1 says what the model's step is then, entries 3 and
27 what becomes of a payload). -/
def Obligations.LabelNotEnabled : Prop :=
  ∀ (i : Instr) (s : State), enabled i s = false →
    exec i s = .next s
    ∨ (∃ r, exec i s = .refused r ∧ (r = .commandBeforeInit ∨ r = .secondInit ∨ r = .notALabel))
    ∨ (i.isHost = true ∧ (∃ t, i.tracker? = some t ∧ s.tracker? t.toNat = none) ∧ exec i s = .next (respond s 0xFF 0))

/-- 30_encoding R111, 44_init_config R257; the refusal is the treatment of 93 U5 (entry 10). That a command not ready leaves the
state as it is is 00_scope R19 and entry 1. That a `WRITE` not taken leaves its payload on the port is the model's choice
(entry 27). -/
def Obligations.HostCommandGuards : Prop :=
  (∀ (i : Instr) (s : State), i.isHost = true → ¬ CommandPortReady s → exec i s = .next s)
  ∧ (∀ (n : BitVec 32) (s : State), CommandPortReady s → s.uartInit = false →
      exec (.write n) s = .refused .commandBeforeInit ∧ exec .isbusy s = .refused .commandBeforeInit
      ∧ exec .chkfrm s = .refused .commandBeforeInit ∧ exec .rxpop s = .refused .commandBeforeInit)
  ∧ (∀ (t : BitVec 8) (v : BitVec 32) (s : State) (p : Tracker), CommandPortReady s →
      s.tracker? t.toNat = some p → p.inited = false →
      exec (.setpos t v) s = .refused .commandBeforeInit ∧ exec (.getpos t) s = .refused .commandBeforeInit)

/-- `INIT` (44_init_config R250; the second `INIT` is 93 U6, entry 10). -/
def Obligations.InitResult : Prop :=
  ∀ (baud : BitVec 29) (parity : Parity) (hd : Bool) (s : State), CommandPortReady s →
    (s.uartInit = false → exec (.init baud parity hd) s = .next (respond { s with
      uartInit := true
      tx := { s.tx with hd := hd }
      rx := { s.rx with drx :=
        if s.cfg.rxMode = .dma then { en := true, rem := s.cfg.scratchCap } else s.rx.drx } } statusOk 0))
    ∧ (s.uartInit = true → exec (.init baud parity hd) s = .refused .secondInit)

/-- `WRITE` (40_transmit R141). That the payload stands in `inp.wdata` is the model's choice (entry 3). -/
def Obligations.WriteAccepted : Prop :=
  ∀ (n : BitVec 32) (s : State), CommandPortReady s → s.uartInit = true → n.toNat ≤ s.inp.wdata.length →
    exec (.write n) s = .next { s with
      nc := { s.nc with
        op := .write, data := s.inp.wdata.take n.toNat, ip := 0, rem := n.toNat
        pc := if s.cfg.txMode = .dma then .w0 else .b0 }
      inp := { s.inp with wdata := s.inp.wdata.drop n.toNat } }

/-- `ISBUSY` (40_transmit R156) and `CHKFRM` (42_frame_signal R210). -/
def Obligations.BooleanCommands : Prop :=
  ∀ s : State, CommandPortReady s → s.uartInit = true →
    exec .isbusy s = .next (respond s statusOk (if s.cfg.txMode = .irq ∨ s.tx.inFlight = true then 1 else 0))
    ∧ exec .chkfrm s =
      .next (respond { s with rx := { s.rx with frame := false } } statusOk (if s.rx.frame = true then 1 else 0))

/-- `SETRXCB` (44_init_config R252). -/
def Obligations.SetrxcbResult : Prop :=
  ∀ (cb q : Bool) (s : State), CommandPortReady s →
    exec (.setrxcb cb q) s = .next (respond { s with rx := { s.rx with cbReg := cb, qAtt := q } } statusOk 0)

/-- `RXPOP` (41_receive R196). -/
def Obligations.RxpopResult : Prop :=
  ∀ s : State, CommandPortReady s → s.uartInit = true →
    (s.rx.rd = s.rx.wr → exec .rxpop s = .next (respond s statusOk 0))
    ∧ (∀ b : Byte, s.rx.rd ≠ s.rx.wr → s.rx.rd < s.cfg.ringCap → s.readByte .ring s.rx.rd = some b →
      exec .rxpop s = .next (respond { s with rx := { s.rx with rd := (s.rx.rd + 1) % s.cfg.ringCap } } statusOk
        (0x100 + b.setWidth 32)))

/-- `POSINIT` (44_init_config R254) and `SETDIR` (43_position R230). -/
def Obligations.TrackerConfigCommands : Prop :=
  ∀ (t : BitVec 8) (d : Dir) (s : State) (p : Tracker), CommandPortReady s → s.tracker? t.toNat = some p →
    exec (.posinit t) s =
      .next (respond { s with pos := s.pos.set t.toNat { p with inited := true } } statusOk 0)
    ∧ exec (.setdir t d) s =
      .next (respond { s with pos := s.pos.set t.toNat { p with dir := d } } statusOk 0)

/-- `INITALL` (44_init_config R255). A slot naming no instance has no effect (entry 23, the model's choice; no slot does in a
state the spec describes). -/
def Obligations.InitallResult : Prop :=
  ∀ s : State, CommandPortReady s →
    (s.reg.n = 0 → exec .initall s =
      .next (respond { s with obs := { s.obs with diagLog := s.obs.diagLog ++ [0x01] } } statusOk 0))
    ∧ (s.reg.n ≠ 0 → ∃ ps : List Tracker, exec .initall s = .next (respond { s with pos := ps } statusOk 0)
      ∧ ∀ k, ps[k]? = (s.pos[k]?).map (fun p =>
        if k < s.cfg.ntrk ∧ k ∈ s.reg.slots.take s.reg.n then { p with inited := true } else p))

/-- Acceptance of `SETPOS` (43_position R225) and `GETPOS` (R228). -/
def Obligations.PositionCommandsAccepted : Prop :=
  ∀ (t : BitVec 8) (v : BitVec 32) (s : State) (p : Tracker), CommandPortReady s →
    s.tracker? t.toNat = some p → p.inited = true →
    exec (.setpos t v) s = .next { s with nc := { s.nc with op := .setpos, t := t.toNat, val := v, pc := .s1 } }
    ∧ exec (.getpos t) s = .next { s with nc := { s.nc with op := .getpos, t := t.toNat, pc := .g1 } }

/-- Phases `W0`, `W1`, `W2`, `W5`, `B0` (40_transmit R142, R144, R145, R148, R149). -/
def Obligations.ProducerPhases : Prop :=
  ∀ s : State,
    (NormalAt s .write .w0 → exec .ncstep s =
      .next (if s.nc.rem = 0 then respond s statusOk 0 else { s with nc := { s.nc with pc := .ws } }))
    ∧ (NormalAt s .write .b0 → exec .ncstep s =
      .next (if s.nc.rem = 0 then respond s statusOk 0 else { s with nc := { s.nc with pc := .b1 } }))
    ∧ (NormalAt s .write .w1 → exec .ncstep s =
      .next { s.setBuf s.nc.tgt { s.buf s.nc.tgt with busy := true } with nc := { s.nc with pc := .w2 } })
    ∧ (NormalAt s .write .w2 → exec .ncstep s =
      .next { s with nc := { s.nc with
        space := s.cfg.txCap - (s.buf s.nc.tgt).fill
        chunk := min (s.cfg.txCap - (s.buf s.nc.tgt).fill) s.nc.rem
        pc := .w3 } })
    ∧ (NormalAt s .write .w5 → exec .ncstep s =
      .next { s.setBuf s.nc.tgt { s.buf s.nc.tgt with busy := false } with nc := { s.nc with pc := .w0 } })

/-- Phase `WS` (40_transmit R143); what the model's step is where the rule has none (the state as it is) is entry 1 (00_scope R17,
R19). -/
def Obligations.SelectionPhase : Prop :=
  ∀ s : State, NormalAt s .write .ws →
    (∀ i : BufId, s.tx.dtx.src ≠ some i → (s.buf i).fill < s.cfg.txCap →
      (i = .b1 → ¬ (s.tx.dtx.src ≠ some .b0 ∧ (s.buf .b0).fill < s.cfg.txCap)) →
      exec .ncstep s = .next (
        if s.cfg.fuseSelectBusy then
          { s.setBuf i { s.buf i with busy := true } with nc := { s.nc with tgt := i, pc := .w2 } }
        else { s with nc := { s.nc with tgt := i, pc := .w1 } }))
    ∧ ((∀ i : BufId, ¬ (s.tx.dtx.src ≠ some i ∧ (s.buf i).fill < s.cfg.txCap)) → exec .ncstep s = .next s)

/-- Phase `W3` (40_transmit R146). -/
def Obligations.CopyPhase : Prop :=
  ∀ s : State, NormalAt s .write .w3 → (s.buf s.nc.tgt).fill + s.nc.chunk ≤ s.cfg.txCap →
    s.nc.ip + s.nc.chunk ≤ s.nc.data.length →
    ∃ t, exec .ncstep s = .next t
      ∧ (∀ k, k < s.nc.chunk →
        t.readByte s.nc.tgt.space ((s.buf s.nc.tgt).fill + k) = s.nc.data[s.nc.ip + k]?)
      ∧ (∀ sp a, ¬ (sp = s.nc.tgt.space ∧ (s.buf s.nc.tgt).fill ≤ a ∧ a < (s.buf s.nc.tgt).fill + s.nc.chunk) →
        t.readByte sp a = s.readByte sp a)
      ∧ (t.buf s.nc.tgt).fill = (s.buf s.nc.tgt).fill + s.nc.chunk
      ∧ (t.buf s.nc.tgt).busy = (s.buf s.nc.tgt).busy
      ∧ (∀ j, j ≠ s.nc.tgt → t.buf j = s.buf j)
      ∧ t.nc = { s.nc with ip := s.nc.ip + s.nc.chunk, rem := s.nc.rem - s.nc.chunk, pc := .w4 }
      ∧ t.tx = { s.tx with buf0 := t.tx.buf0, buf1 := t.tx.buf1 }
      ∧ t = { s with tx := t.tx, nc := t.nc }

/-- Phase `W4` (40_transmit R147). -/
def Obligations.StartPhase : Prop :=
  ∀ s : State, NormalAt s .write .w4 →
    (s.tx.inFlight = true → exec .ncstep s = .next { s with nc := { s.nc with pc := .w5 } })
    ∧ (s.tx.inFlight = false → exec .ncstep s = .next { s with
      tx := { s.tx with
        inFlight := true
        dtx := { en := true, src := some s.nc.tgt, len := (s.buf s.nc.tgt).fill, rem := (s.buf s.nc.tgt).fill }
        de := if s.tx.hd = true then .tx else s.tx.de }
      nc := { s.nc with pc := .w5 } })

/-- Phases `B1`, `B2` (40_transmit R150, R151). The spec marks the clears of `tx.txe` and `tx.tc` as its own, from general
knowledge (93 G4, G2; entry 20); what a held `B1` does to the state is entry 1. -/
def Obligations.ByteWritePhases : Prop :=
  ∀ s : State,
    (NormalAt s .write .b1 → exec .ncstep s =
      .next (if s.tx.txe = true then { s with nc := { s.nc with pc := .b2 } } else s))
    ∧ (∀ b : Byte, NormalAt s .write .b2 → s.nc.data[s.nc.ip]? = some b → exec .ncstep s =
      .next { s with
        tx := { s.tx with tdr := b, txe := false, tc := false }
        nc := { s.nc with ip := s.nc.ip + 1, rem := s.nc.rem - 1, pc := .b0 } })

/-- Phases `S1`, `S2` (43_position R226, R227). -/
def Obligations.SetposPhases : Prop :=
  ∀ (s : State) (p : Tracker), s.tracker? s.nc.t = some p →
    (NormalAt s .setpos .s1 → ∃ e c : BitVec 16,
      e.toInt = (if p.dir = .forward then s.nc.val.toInt else wrap32 (-s.nc.val.toInt)).fdiv 65536
      ∧ (c.toNat : Int) = (if p.dir = .forward then s.nc.val.toInt else wrap32 (-s.nc.val.toInt)).fmod 65536
      ∧ exec .ncstep s = .next { s with
        pos := s.pos.set s.nc.t { p with ext := e }
        nc := { s.nc with e := c, pc := .s2 } })
    ∧ (NormalAt s .setpos .s2 → exec .ncstep s =
      .next (respond { s with pos := s.pos.set s.nc.t { p with cnt := s.nc.e } } statusOk 0))

/-- Phases `G1`, `G2` (43_position R229). -/
def Obligations.GetposPhases : Prop :=
  ∀ (s : State) (p : Tracker), s.tracker? s.nc.t = some p →
    (NormalAt s .getpos .g1 → exec .ncstep s = .next { s with nc := { s.nc with
      e := if s.cfg.getposOrder = .extFirst then p.ext else p.cnt
      pc := .g2 } })
    ∧ (NormalAt s .getpos .g2 → ∃ raw : Int,
      raw = (if s.cfg.getposOrder = .extFirst then s.nc.e.toInt * 65536 + (p.cnt.toNat : Int)
        else p.ext.toInt * 65536 + (s.nc.e.toNat : Int))
      ∧ exec .ncstep s = .next (respond s statusOk
        (BitVec.ofInt 32 (if p.dir = .forward then raw else wrap32 (-raw)))))

/-- Phases `T1`, `T2`, `T3`, `T5` (40_transmit R160 to R162, R164). That `ChannelMismatch` is a next state with the fault recorded
and nothing else written, `ic.pc` among it, is entry 13 (60_exceptions R266). -/
def Obligations.CompletionPhases : Prop :=
  ∀ s : State,
    (HandlerAt s .txc .t1 → exec .icstep s = .next { s with
      tx := { s.tx with dtx := { s.tx.dtx with en := false }, tcif := false }
      ic := { s.ic with pc := .t2 } })
    ∧ (∀ i : BufId, HandlerAt s .txc .t2 → s.tx.dtx.src = some i → exec .icstep s =
      .next { s with ic := { s.ic with done := i, pc := .t3 } })
    ∧ (HandlerAt s .txc .t2 → s.tx.dtx.src = none → exec .icstep s = .next { s with fault := .channelMismatch })
    ∧ (HandlerAt s .txc .t3 → exec .icstep s =
      .next { s.setBuf s.ic.done { s.buf s.ic.done with fill := 0 } with ic := { s.ic with pc := .t4 } })
    ∧ (HandlerAt s .txc .t5 → exec .icstep s = .next { s with
      tx := { s.tx with inFlight := false }
      ic := { s.ic with pc := .t6 } })

/-- Phase `T4` (40_transmit R163). -/
def Obligations.HandoffPhase : Prop :=
  ∀ s : State, HandlerAt s .txc .t4 →
    ((s.buf s.ic.done.other).fill ≠ 0 ∧ (s.buf s.ic.done.other).busy = false → exec .icstep s = .next { s with
      tx := { s.tx with
        dtx := {
          en := true
          src := some s.ic.done.other
          len := (s.buf s.ic.done.other).fill
          rem := (s.buf s.ic.done.other).fill }
        de := if s.tx.hd = true then .tx else s.tx.de }
      ic := { s.ic with pc := .t6 } })
    ∧ (¬ ((s.buf s.ic.done.other).fill ≠ 0 ∧ (s.buf s.ic.done.other).busy = false) →
      exec .icstep s = .next { s with ic := { s.ic with pc := .t5 } })

/-- Phase `T6` (40_transmit R165), held across a chained transfer so that the line never turns in mid-transfer
(70_reset_and_hazards R324, 90_conflicts C8); that the hold looks at the engine's bytes beside `tx.tc` is entry 28. What the
model's step is where the rule has none (the state as it is) is entry 1 (00_scope R17, R19). -/
def Obligations.DirectionPhase : Prop :=
  (∀ s : State, HandlerAt s .txc .t6 → exec .icstep s = .next (
    if s.tx.hd = false then { s with ic := { s.ic with h := .none } }
    else if s.tx.tc = true ∧ ¬ (s.tx.dtx.en = true ∧ 0 < s.tx.dtx.rem) then
      { s with tx := { s.tx with de := .rx }, ic := { s.ic with h := .none } }
    else s))
  ∧ (∀ (i : Instr) (s t : State), exec i s = .next t → s.tx.de = .tx → t.tx.de = .rx →
    ¬ (t.tx.dtx.en = true ∧ 0 < t.tx.dtx.rem))

/-- Phases `I1`, `I2`, `I3`, `I5`, `I6` (41_receive R184 to R186, R188, R189). -/
def Obligations.IdleHandlerPhases : Prop :=
  ∀ s : State,
    (HandlerAt s .idle .i1 → exec .icstep s = .next { s with
      rx := { s.rx with frame := true }
      ic := { s.ic with pc := if s.cfg.rxMode = .dma then .i2 else .i6 } })
    ∧ (HandlerAt s .idle .i2 → exec .icstep s = .next { s with
      rx := { s.rx with drx := { s.rx.drx with en := false } }
      ic := { s.ic with len := s.cfg.scratchCap - s.rx.drx.rem, pc := .i3 } })
    ∧ (HandlerAt s .idle .i3 → exec .icstep s = .next { s with
      rx := { s.rx with drx := { s.rx.drx with rem := s.cfg.scratchCap } }
      ic := { s.ic with pc := .i4 } })
    ∧ (HandlerAt s .idle .i5 → exec .icstep s = .next { s with
      rx := { s.rx with drx := { s.rx.drx with en := true } }
      ic := { s.ic with pc := .i6 } })
    ∧ (HandlerAt s .idle .i6 → exec .icstep s = .next { s with
      rx := { s.rx with idle := false }
      ic := { s.ic with pc := .i7 } })

/-- Phase `I4` (41_receive R187). -/
def Obligations.CopyFramePhase : Prop :=
  ∀ s : State, HandlerAt s .idle .i4 → s.rx.wr < s.cfg.ringCap → s.ic.len ≤ s.cfg.scratchCap →
    (∀ a, a < s.ic.len → Written s .scr a) →
    ∃ m : Memory, exec .icstep s = .next { s with
        rx := { s.rx with ring := m, wr := (s.rx.wr + s.ic.len) % s.cfg.ringCap }
        ic := { s.ic with pc := .i5 } }
      ∧ (∀ k, k < s.ic.len → s.ic.len ≤ k + s.cfg.ringCap →
        m.read ((s.rx.wr + k) % s.cfg.ringCap) = s.readByte .scr k)
      ∧ (∀ a, (∀ k, k < s.ic.len → a ≠ (s.rx.wr + k) % s.cfg.ringCap) → m.read a = s.readByte .ring a)

/-- Phase `I7` and `EQDISP` (41_receive R190, R194; 30_encoding R127); what the model's step is where the rule has none (the state
as it is) is entry 1 (00_scope R17, R19). -/
def Obligations.CallbackPhases : Prop :=
  ∀ s : State,
    (HandlerAt s .idle .i7 → exec .icstep s = .next { s with
      evq := if s.rx.cbReg = true ∧ s.rx.qAtt = true then s.evq + 1 else s.evq
      obs := { s.obs with cbLog :=
        if s.rx.cbReg = true ∧ s.rx.qAtt = false then s.obs.cbLog ++ [.interrupt] else s.obs.cbLog }
      ic := { s.ic with h := .none } })
    ∧ exec .eqdisp s = .next (
      if 0 < s.evq ∧ CommandPortReady s then
        { s with evq := s.evq - 1, obs := { s.obs with cbLog := s.obs.cbLog ++ [.normal] } }
      else s)

/-- Phases `N1`, `E1` (41_receive R191, R192, of each the phase; the dispatches are `DispatchEnters`). -/
def Obligations.ByteAndOverrunPhases : Prop :=
  ∀ s : State,
    (HandlerAt s .rxne .n1 → s.rx.wr < s.cfg.ringCap → ∃ m : Memory, exec .icstep s = .next { s with
        rx := { s.rx with ring := m, wr := (s.rx.wr + 1) % s.cfg.ringCap, rxne := false }
        ic := { s.ic with h := .none } }
      ∧ m.read s.rx.wr = some s.rx.rdr ∧ ∀ a, a ≠ s.rx.wr → m.read a = s.readByte .ring a)
    ∧ (HandlerAt s .ore .e1 → exec .icstep s = .next { s with
      rx := { s.rx with ore := false }
      ic := { s.ic with h := .none } })

/-- Phases `O1`, `O2` (43_position R223, R224). -/
def Obligations.OverflowPhases : Prop :=
  ∀ (s : State) (p : Tracker), s.tracker? s.ic.t = some p →
    (HandlerAt s .ovf .o1 → ∃ e : BitVec 16,
      e.toInt = wrap16s (p.ext.toInt + (if p.cnt.toNat ≤ 0x7FFF then 1 else -1))
      ∧ exec .icstep s = .next { s with
        pos := s.pos.set s.ic.t { p with ext := e }
        ic := { s.ic with pc := .o2 } })
    ∧ (HandlerAt s .ovf .o2 → exec .icstep s = .next { s with
      pos := s.pos.set s.ic.t { p with uif := false }
      ic := { s.ic with h := .none } })

/-- `DTXB` (40_transmit R152). The spec marks the clear of `tx.tc` as its own, from general knowledge (93 G2; entry 20). -/
def Obligations.DtxbResult : Prop :=
  ∀ (s : State) (i : BufId) (b : Byte), s.uartInit = true → s.cfg.txMode = .dma → s.fault = .none →
    s.tx.dtx.en = true → 0 < s.tx.dtx.rem → s.tx.dtx.src = some i →
    s.tx.dtx.rem ≤ s.tx.dtx.len → s.tx.dtx.len ≤ s.cfg.txCap →
    s.readByte i.space (s.tx.dtx.len - s.tx.dtx.rem) = some b →
    exec .dtxb s = .next { s with
      tx := { s.tx with
        dtx := { s.tx.dtx with rem := s.tx.dtx.rem - 1 }
        tc := false
        tcif := if s.tx.dtx.rem = 1 then true else s.tx.tcif }
      obs := { s.obs with txStream := s.obs.txStream ++ [b] } }

/-- `LTC`, `LTXE` (40_transmit R153, R154), `LINEB`, `LIDLE` (41_receive R180, R181). The spec marks what the transmitter and the
one-byte receiver do as its own, from general knowledge (entry 20); that a label not enabled leaves the state as it is is
00_scope R19 and entry 1. -/
def Obligations.SerialLineEvents : Prop :=
  ∀ (s : State) (b : Byte),
    exec .ltc s = .next (
      if s.uartInit = true ∧ s.fault = .none ∧ s.tx.tc = false ∧ s.tx.txe = true
          ∧ ¬ (s.tx.dtx.en = true ∧ 0 < s.tx.dtx.rem) then
        { s with tx := { s.tx with tc := true } }
      else s)
    ∧ exec .ltxe s = .next (
      if s.uartInit = true ∧ s.cfg.txMode = .irq ∧ s.fault = .none ∧ s.tx.txe = false then
        { s with tx := { s.tx with txe := true }, obs := { s.obs with txStream := s.obs.txStream ++ [s.tx.tdr] } }
      else s)
    ∧ exec (.lineb b) s = .next (
      if s.uartInit = true ∧ s.fault = .none then
        if s.rx.rxne = true then { s with rx := { s.rx with ore := true } }
        else { s with rx := { s.rx with rdr := b, rxne := true } }
      else s)
    ∧ exec .lidle s = .next (
      if s.uartInit = true ∧ s.fault = .none then { s with rx := { s.rx with idle := true } } else s)

/-- `DRXB` (41_receive R182). The spec marks the reload of the count as its own, from general knowledge (entry 20). -/
def Obligations.DrxbResult : Prop :=
  ∀ s : State, s.uartInit = true → s.cfg.rxMode = .dma → s.fault = .none → s.rx.drx.en = true → s.rx.rxne = true →
    1 ≤ s.rx.drx.rem → s.rx.drx.rem ≤ s.cfg.scratchCap →
    ∃ m : Memory, exec .drxb s = .next { s with rx := { s.rx with
        scr := m, rxne := false
        drx := { s.rx.drx with rem := if s.rx.drx.rem = 1 then s.cfg.scratchCap else s.rx.drx.rem - 1 } } }
      ∧ m.read (s.cfg.scratchCap - s.rx.drx.rem) = some s.rx.rdr
      ∧ ∀ a, a ≠ s.cfg.scratchCap - s.rx.drx.rem → m.read a = s.readByte .scr a

/-- `CNTUP`, `CNTDN` (43_position R220, R221); what the model's step is where the rule has none (the state as it is) is entry 1
(00_scope R17, R19). -/
def Obligations.CounterSteps : Prop :=
  ∀ (t : BitVec 8) (s : State) (p : Tracker), s.tracker? t.toNat = some p →
    (p.inited = true ∧ s.fault = .none →
      exec (.cntup t) s = .next { s with
        pos := s.pos.set t.toNat
          (if p.cnt.toNat = 65535 then { p with cnt := 0, uif := true } else { p with cnt := p.cnt + 1 }) }
      ∧ exec (.cntdn t) s = .next { s with
        pos := s.pos.set t.toNat
          (if p.cnt.toNat = 0 then { p with cnt := 65535, uif := true } else { p with cnt := p.cnt - 1 }) })
    ∧ (¬ (p.inited = true ∧ s.fault = .none) → exec (.cntup t) s = .next s ∧ exec (.cntdn t) s = .next s)

/-- The dispatches (60_exceptions R270, R275; 40_transmit R155; 41_receive R183, R191, R192; 43_position R222), under the spec's
default `IRQ_PRIO`. -/
def Obligations.DispatchEnters : Prop :=
  ∀ s : State, s.ic.h = .none → s.fault = .none → PriorityFree s →
    (s.uartInit = true → s.cfg.txMode = .dma → s.tx.tcif = true →
      exec .irqtxc s = .next { s with ic := { s.ic with h := .txc, pc := .t1 } })
    ∧ (s.uartInit = true → s.rx.idle = true →
      exec .irqidle s = .next { s with ic := { s.ic with h := .idle, pc := .i1 } })
    ∧ (s.uartInit = true → s.cfg.rxMode = .byte → s.rx.rxne = true →
      exec .irqrxne s = .next { s with ic := { s.ic with h := .rxne, pc := .n1 } })
    ∧ (s.uartInit = true → s.rx.ore = true →
      exec .irqore s = .next { s with ic := { s.ic with h := .ore, pc := .e1 } })
    ∧ (∀ (t : BitVec 8) (p : Tracker), s.tracker? t.toNat = some p → p.inited = true → p.uif = true →
      exec (.irqovf t) s = .next { s with ic := { s.ic with h := .ovf, pc := .o1, t := t.toNat } })

/-- Context exclusion (00_scope R20, 60_exceptions R275) and the stop after `ChannelMismatch` (60_exceptions R266). What the
model's step is for a label not taken is entry 1, what becomes of a payload entry 27. -/
def Obligations.ContextExclusion : Prop :=
  ∀ (i : Instr) (s : State), (∀ t, i.tracker? = some t → (s.tracker? t.toNat).isSome = true) →
    (s.fault ≠ .none ∨
      (s.ic.h ≠ .none ∧ (i.isHost = true ∨ i = .ncstep ∨ i = .eqdisp ∨ i.isDispatch = true))) →
    exec i s = .next s

/-- The column of the interrupt context in 60_exceptions R279. -/
def Obligations.InterruptContextFrame : Prop :=
  ∀ s t : State, exec .icstep s = .next t →
    t.cfg = s.cfg ∧ t.uartInit = s.uartInit ∧ t.reg = s.reg ∧ t.nc = s.nc ∧ t.inp = s.inp
    ∧ (∀ i, (t.buf i).busy = (s.buf i).busy) ∧ (∀ sp a, sp ≠ .ring → t.readByte sp a = s.readByte sp a)
    ∧ t.tx.tdr = s.tx.tdr ∧ t.tx.txe = s.tx.txe ∧ t.tx.tc = s.tx.tc ∧ t.tx.hd = s.tx.hd
    ∧ t.rx.rd = s.rx.rd ∧ t.rx.rdr = s.rx.rdr ∧ t.rx.cbReg = s.rx.cbReg ∧ t.rx.qAtt = s.rx.qAtt
    ∧ (∀ k : Nat, (t.pos[k]?).map (fun p : Tracker => (p.cnt, p.dir, p.inited)) = (s.pos[k]?).map (fun p : Tracker => (p.cnt, p.dir, p.inited)))
    ∧ t.obs.txStream = s.obs.txStream ∧ t.obs.diagLog = s.obs.diagLog ∧ t.obs.resp = s.obs.resp
    ∧ s.evq ≤ t.evq

/-- The column of the normal context in 60_exceptions R279. -/
def Obligations.NormalContextFrame : Prop :=
  ∀ (i : Instr) (s t : State), (i.isHost = true ∨ i = .ncstep ∨ i = .eqdisp) → exec i s = .next t →
    t.cfg = s.cfg ∧ t.reg = s.reg ∧ t.ic = s.ic ∧ t.fault = s.fault ∧ t.tx.tcif = s.tx.tcif
    ∧ (∀ sp a, sp = .ring ∨ sp = .scr → t.readByte sp a = s.readByte sp a)
    ∧ t.rx.wr = s.rx.wr ∧ t.rx.rdr = s.rx.rdr ∧ t.rx.rxne = s.rx.rxne ∧ t.rx.idle = s.rx.idle ∧ t.rx.ore = s.rx.ore
    ∧ (∀ k : Nat, (t.pos[k]?).map (fun p : Tracker => p.uif) = (s.pos[k]?).map (fun p : Tracker => p.uif))
    ∧ (∀ j, (s.buf j).fill ≤ (t.buf j).fill) ∧ (s.tx.inFlight = true → t.tx.inFlight = true)
    ∧ (s.tx.dtx.en = true → t.tx.dtx.en = true) ∧ (t.rx.frame = true → s.rx.frame = true)
    ∧ t.obs.txStream = s.obs.txStream ∧ t.evq ≤ s.evq

/-- The memory frame of every label: the effective indices of the stores of 20_memory R96 (`storesTo`). -/
def Obligations.StoresOnlyWhereListed : Prop :=
  ∀ (i : Instr) (s t : State), exec i s = .next t →
    ∀ sp a, t.readByte sp a = s.readByte sp a ∨ storesTo i s sp a

/-- Parameters fixed (70_reset_and_hazards R300), registry never written (10_state R51), the observation a record (10_state R57). -/
def Obligations.ParametersAndLogs : Prop :=
  ∀ (i : Instr) (s t : State), exec i s = .next t →
    t.cfg = s.cfg ∧ t.reg = s.reg ∧ t.pos.length = s.pos.length ∧ t.inp.events = s.inp.events
    ∧ (∃ l, t.obs.txStream = s.obs.txStream ++ l ∧ l.length ≤ 1)
    ∧ (∃ l, t.obs.cbLog = s.obs.cbLog ++ l ∧ l.length ≤ 1)
    ∧ (∃ l, t.obs.diagLog = s.obs.diagLog ++ l ∧ l.length ≤ 1)
    ∧ (∃ l, t.obs.resp = s.obs.resp ++ l ∧ l.length ≤ 1)

/-- Bounds of the memories (20_memory R80, R84); the canonical form is the model's. -/
def Obligations.MemoryFormKept : Prop :=
  ∀ s t : State, MemoryOk s → step s = .next t → MemoryOk t

/-- 10_state R59 (a), (f), (g) with R30, R32 and 40_transmit R145, R146 (`TransmitOk`). -/
def Obligations.TransmitInvariantKept : Prop :=
  ∀ s t : State, TransmitOk s → step s = .next t → TransmitOk t

/-- 10_state R59 (c), (d) with R38 and 41_receive R185 (`ReceiveOk`). -/
def Obligations.ReceiveInvariantKept : Prop :=
  ∀ s t : State, ReceiveOk s → step s = .next t → ReceiveOk t

/-- The whole invariant (`BlockOk`): every index in range (20_memory R84), no byte read before it is written (93 U10),
`ChannelMismatch` unreachable (60_exceptions R266). -/
def Obligations.BlockInvariantKept : Prop :=
  ∀ s : State, BlockOk s → (∀ f, step s ≠ .fault f) ∧ (∀ t, step s = .next t → BlockOk t)

/-- The whole invariant holds right after reset (70_reset_and_hazards R300). That the reset values are the spec's own decision is
entry 21; the parameters of `State.reset` in the second clause are the model's choice (entry 4). -/
def Obligations.ResetMeetsInvariant : Prop :=
  (∀ c : Cfg, c.ok = true → BlockOk (State.resetWith c)) ∧ BlockOk State.reset

/-- Buffer mutual exclusion (40_transmit R167). -/
def Obligations.BufferMutualExclusion : Prop :=
  ∀ s t : State, exec .icstep s = .next t → s.tx.dtx.en = false → t.tx.dtx.en = true →
    s.ic.h = .txc ∧ s.ic.pc = .t4 ∧ t.tx.dtx.src = some s.ic.done.other
    ∧ (s.buf s.ic.done.other).busy = false ∧ (s.buf s.ic.done.other).fill ≠ 0
    ∧ t.tx.dtx.len = (s.buf s.ic.done.other).fill ∧ t.tx.dtx.rem = (s.buf s.ic.done.other).fill

/-- The holds nothing lifts (70_reset_and_hazards R323, 93 U2; R322, 93 U15). -/
def Obligations.StuckRunsStayStuck : Prop :=
  ∀ (i : Instr) (s t : State), exec i s = .next t →
    (HeldForGood s → HeldForGood t ∧ t.obs.resp = s.obs.resp) ∧ (StalledForGood s → StalledForGood t)

/-- The start-to-clear race (70_reset_and_hazards R323). -/
def Obligations.StartToClearRace : Prop :=
  ∀ (s : State) (i : BufId), NormalAt s .write .w5 → PriorityFree s → s.uartInit = true → s.cfg.txMode = .dma →
    s.tx.hd = false → s.nc.tgt = i → (s.buf i).busy = true → s.tx.tcif = true → s.tx.inFlight = true →
    s.tx.dtx.src = some i.other →
    ∃ t, runLabels ([.irqtxc] ++ List.replicate 6 .icstep ++ [.ncstep]) s = .next t
      ∧ t.nc.op = .write ∧ t.nc.pc = .w0 ∧ t.ic.h = .none ∧ t.tx.inFlight = false ∧ t.tx.dtx.en = false
      ∧ t.tx.tcif = false ∧ t.tx.dtx.src = some i.other ∧ (t.buf i.other).fill = 0
      ∧ (t.buf i).fill = (s.buf i).fill ∧ (t.buf i).busy = false
      ∧ (∀ sp a, t.readByte sp a = s.readByte sp a)

/-- The contract of `Write` for one chunk (40_transmit R140, R168), over the acceptance and the phases of R141 to R148 and the
byte steps of R152. That the payload stands in `inp.wdata` is the model's choice (entry 3). -/
def Obligations.WriteThenDrain : Prop :=
  ∀ (s : State) (i : BufId) (n : BitVec 32), CommandPortReady s → s.uartInit = true → s.cfg.txMode = .dma →
    s.tx.inFlight = false → s.tx.dtx.src ≠ some i → (s.buf i).fill = 0 →
    (i = .b1 → ¬ (s.tx.dtx.src ≠ some .b0 ∧ (s.buf .b0).fill < s.cfg.txCap)) →
    1 ≤ n.toNat → n.toNat ≤ s.cfg.txCap → n.toNat ≤ s.inp.wdata.length →
    ∃ t, runLabels ([.write n] ++ List.replicate 8 .ncstep ++ List.replicate n.toNat .dtxb) s = .next t
      ∧ t.obs.txStream = s.obs.txStream ++ s.inp.wdata.take n.toNat
      ∧ t.obs.resp = s.obs.resp ++ [respWord statusOk 0]
      ∧ t.nc.op = .none ∧ t.tx.inFlight = true ∧ t.tx.dtx.src = some i ∧ t.tx.dtx.rem = 0 ∧ t.tx.tcif = true
      ∧ (t.buf i).busy = false

/-- The non-DMA `Write` (40_transmit R149 to R151, R154). What the transmitter does with its data register (`B2`, `LTXE`) the spec
marks as its own, from general knowledge (93 G4; entry 20); that the payload stands in `inp.wdata` is the model's choice
(entry 3). -/
def Obligations.NonDmaWriteDelivers : Prop :=
  ∀ (s : State) (n : BitVec 32), CommandPortReady s → s.uartInit = true → s.cfg.txMode = .irq → s.tx.txe = true →
    n.toNat ≤ s.inp.wdata.length →
    ∃ t, runLabels ([.write n] ++ (List.replicate n.toNat [.ncstep, .ncstep, .ncstep, .ltxe]).flatten ++ [.ncstep]) s
        = .next t
      ∧ t.obs.txStream = s.obs.txStream ++ s.inp.wdata.take n.toNat
      ∧ t.obs.resp = s.obs.resp ++ [respWord statusOk 0]
      ∧ t.nc.op = .none ∧ t.tx.txe = true

/-- Receive byte accounting (41_receive R197, first half, under its conditions). What the one-byte receiver and the circular count
do (`LINEB`, `DRXB`) the spec marks as its own, from general knowledge (93 G3, G5; entry 20). -/
def Obligations.ReceiveByteAccounting : Prop :=
  ∀ (s : State) (bs : List Byte), s.ic.h = .none → s.fault = .none → PriorityFree s → s.uartInit = true →
    s.cfg.rxMode = .dma → s.rx.drx = { en := true, rem := s.cfg.scratchCap } → s.rx.rxne = false →
    s.rx.wr < s.cfg.ringCap → bs.length < s.cfg.scratchCap → bs.length ≤ s.cfg.ringCap →
    ∃ t, runLabels (frameLabels bs) s = .next t
      ∧ (∀ k, k < bs.length → t.readByte .ring ((s.rx.wr + k) % s.cfg.ringCap) = bs[k]?)
      ∧ (∀ a, (∀ k, k < bs.length → a ≠ (s.rx.wr + k) % s.cfg.ringCap) → t.readByte .ring a = s.readByte .ring a)
      ∧ t.rx.wr = (s.rx.wr + bs.length) % s.cfg.ringCap
      ∧ t.rx.drx = { en := true, rem := s.cfg.scratchCap } ∧ t.rx.frame = true ∧ t.rx.idle = false
      ∧ t.ic.h = .none ∧ t.rx.rd = s.rx.rd ∧ t.nc = s.nc

/-- The position round trip (43_position R233), with nothing taken in between. -/
def Obligations.PositionRoundTrip : Prop :=
  ∀ (s : State) (t : BitVec 8) (v : BitVec 32) (p : Tracker), CommandPortReady s →
    s.tracker? t.toNat = some p → p.inited = true →
    ∃ u q, runLabels [.setpos t v, .ncstep, .ncstep, .getpos t, .ncstep, .ncstep] s = .next u
      ∧ u.obs.resp = s.obs.resp ++ [respWord statusOk 0, respWord statusOk v]
      ∧ u.tracker? t.toNat = some q ∧ q.logical = v.toInt ∧ q.uif = p.uif ∧ q.dir = p.dir

/-- Overflow direction inference and continuity (43_position R234). -/
def Obligations.OverflowContinuity : Prop :=
  ∀ (s : State) (t : BitVec 8) (p : Tracker), s.ic.h = .none → s.fault = .none → PriorityFree s →
    s.tracker? t.toNat = some p → p.inited = true →
    (p.cnt.toNat = 65535 → ∃ q, runLabels [.cntup t, .irqovf t, .icstep, .icstep] s = .next { s with
        pos := s.pos.set t.toNat q, ic := { s.ic with h := .none, pc := .o2, t := t.toNat } }
      ∧ q = { p with cnt := 0, ext := p.ext + 1, uif := false }
      ∧ (p.ext.toInt ≠ 32767 → q.ext.toInt * 65536 + (q.cnt.toNat : Int) = p.ext.toInt * 65536 + (p.cnt.toNat : Int) + 1))
    ∧ (p.cnt.toNat = 0 → ∃ q, runLabels [.cntdn t, .irqovf t, .icstep, .icstep] s = .next { s with
        pos := s.pos.set t.toNat q, ic := { s.ic with h := .none, pc := .o2, t := t.toNat } }
      ∧ q = { p with cnt := 65535, ext := p.ext - 1, uif := false }
      ∧ (p.ext.toInt ≠ -32768 → q.ext.toInt * 65536 + (q.cnt.toNat : Int) = p.ext.toInt * 65536 + (p.cnt.toNat : Int) - 1))

/-- The torn read (70_reset_and_hazards R326, forward wrap). -/
def Obligations.TornPositionRead : Prop :=
  ∀ (s : State) (t : BitVec 8) (p : Tracker), CommandPortReady s → PriorityFree s →
    s.tracker? t.toNat = some p → p.inited = true → p.dir = .forward → p.cnt.toNat = 65535 → p.ext.toInt < 32767 →
    ∃ u, runLabels [.getpos t, .ncstep, .cntup t, .irqovf t, .icstep, .icstep, .ncstep] s = .next u
      ∧ u.obs.resp = s.obs.resp ++ [respWord statusOk (BitVec.ofInt 32 (
        if s.cfg.getposOrder = .extFirst then p.ext.toInt * 65536 else (p.ext.toInt + 1) * 65536 + 65535))]
end

