-- ==== Sys2Proof/WellFormed.lean ====
section
/-! DEFINITION. Which labels are well formed. The types of `Instr` leave nothing to check but the tracker instance of a
position label: `parity` and `sign` have no constructor for their illegal values (30_encoding R112, R120). -/

namespace Sys2Proof

/-- A tracker number that some configuration of the spec has: `t < POOLCAP` (00_scope R9). -/
def trackerInPool (t : BitVec 8) : Bool := t.toNat < poolCap

/-- A label whose operands lie in the ranges of 30_encoding R112 for some configuration of the spec. -/
def Instr.wellFormed (i : Instr) : Bool :=
  match i.tracker? with
  | some t => trackerInPool t
  | none => true

/-- A label that is legal in the configuration `c`: a position label names a tracker `t < NTRK`
(30_encoding R112, R120 (e)). -/
def Instr.legalIn (c : Cfg) (i : Instr) : Bool :=
  match i.tracker? with
  | some t => t.toNat < c.ntrk
  | none => true

end Sys2Proof
end

