-- ==== Sys2Proof/Laws/Decode.lean ====
section
/-! SUPPORT. Small lemmas of the encoding (30_encoding R110, R118): the fields of a word built from its fields, and the opcode map
read both ways. -/

namespace Sys2Proof

/-- Bit `j` of a label word, by field (30_encoding R110). -/
theorem getLsbD_mkWord (op sel : BitVec 8) (arg : BitVec 32) (j : Nat) :
    (mkWord op sel arg).getLsbD j =
      if j < 32 then arg.getLsbD j else if j < 40 then sel.getLsbD (j - 32) else op.getLsbD (j - 40) := by
  unfold mkWord
  rw [BitVec.getLsbD_append, BitVec.getLsbD_append]
  by_cases h1 : j < 32
  · simp [h1, show j < 8 + 32 by omega]
  · by_cases h2 : j < 40
    · simp [h1, h2]
    · simp [h1, h2]

@[simp] theorem opField_mkWord (op sel : BitVec 8) (arg : BitVec 32) : opField (mkWord op sel arg) = op := by
  apply BitVec.eq_of_getLsbD_eq
  intro j hj
  simp [opField, getLsbD_mkWord, hj]
  omega

@[simp] theorem selField_mkWord (op sel : BitVec 8) (arg : BitVec 32) : selField (mkWord op sel arg) = sel := by
  apply BitVec.eq_of_getLsbD_eq
  intro j hj
  simp [selField, getLsbD_mkWord, hj]
  omega

@[simp] theorem argField_mkWord (op sel : BitVec 8) (arg : BitVec 32) : argField (mkWord op sel arg) = arg := by
  apply BitVec.eq_of_getLsbD_eq
  intro j hj
  simp [argField, getLsbD_mkWord, hj]

/-- A word is made of its fields (30_encoding R110). -/
theorem mkWord_fields (w : LabelWord) : mkWord (opField w) (selField w) (argField w) = w := by
  apply BitVec.eq_of_getLsbD_eq
  intro j hj
  rw [getLsbD_mkWord]
  split
  · rename_i h; simp [argField, h]
  · split
    · simp [selField]
      rename_i h1 h2
      rw [show 32 + (j - 32) = j by omega]
      simp; omega
    · simp [opField]
      rename_i h1 h2
      rw [show 40 + (j - 40) = j by omega]
      simp; omega

/-- Masking a word masks its fields. -/
theorem mkWord_and (a b : BitVec 8) (c : BitVec 32) (x y : BitVec 8) (z : BitVec 32) :
    mkWord a b c &&& mkWord x y z = mkWord (a &&& x) (b &&& y) (c &&& z) := by
  apply BitVec.eq_of_getLsbD_eq
  intro j _
  simp only [BitVec.getLsbD_and, getLsbD_mkWord]
  split
  · rfl
  · split <;> rfl

/-- The opcode map read back from a row's `op` value gives the row (30_encoding R118). -/
@[simp] theorem opOfCode_code (o : Op) : opOfCode? o.code = some o := by cases o <;> decide

/-- What the opcode map gives has that `op` value. -/
theorem code_of_opOfCode {c : BitVec 8} {o : Op} (h : opOfCode? c = some o) : o.code = c := by
  unfold opOfCode? at h
  simpa using List.find?_some h

/-- Every row stands in the list of the rows. -/
theorem mem_all (o : Op) : o ∈ Op.all := by cases o <;> decide

/-- The `match` column is the `op` value with `sel` and `arg` zero (30_encoding R118). -/
theorem matchBits_eq (o : Op) : o.matchBits = mkWord o.code 0 0 := by cases o <;> decide

/-- The parity field read back (30_encoding R112). -/
@[simp] theorem decodeParity_encodeParity (p : Parity) : decodeParity (encodeParity p) = some p := by cases p <;> decide

/-- The sign field read back (30_encoding R112). -/
@[simp] theorem decodeSign_encodeSign (d : Dir) : decodeSign (encodeSign d) = some d := by cases d <;> decide

/-- Which parity fields are legal (30_encoding R120 (c)). -/
theorem decodeParity_isSome (p : BitVec 2) : (decodeParity p).isSome = true ↔ p ≠ 3 := by
  revert p; decide

/-- Which sign fields are legal (30_encoding R120 (d)). -/
theorem decodeSign_isSome (a : BitVec 32) : (decodeSign a).isSome = true ↔ a = 0x00000001 ∨ a = 0xFFFFFFFF := by
  unfold decodeSign
  split
  · simp_all
  · split <;> simp_all

/-- A word with an unassigned `op` is rejected by that name (30_encoding R120 (a)). -/
theorem decode_unassigned {w : LabelWord} (h : opOfCode? (opField w) = none) : decode w = .error .unassignedOp := by
  simp [decode, h]

/-- A word of a row with a must-be-zero bit set is rejected by that name (30_encoding R119, R120 (b)). -/
theorem decode_mustBeZero {w : LabelWord} {o : Op} (h : opOfCode? (opField w) = some o)
    (hm : w &&& o.maskBits ≠ o.matchBits) : decode w = .error .mustBeZero := by
  simp [decode, h, hm]

/-- A word that matches its row is read by its operand fields (30_encoding R112). -/
theorem decode_assemble {w : LabelWord} {o : Op} (h : opOfCode? (opField w) = some o)
    (hm : w &&& o.maskBits = o.matchBits) : decode w = assemble o (selField w) (argField w) := by
  simp [decode, h, hm]

/-- A response word carried as bytes is read back, and the bytes after it are left over. -/
@[simp] theorem respOfBytes_respBytes (r : RespWord) (rest : List Byte) :
    respOfBytes (respBytes r ++ rest) = some (r, rest) := by
  simp only [respBytes, respOfBytes, List.cons_append, List.nil_append, Option.some.injEq, Prod.mk.injEq, and_true]
  apply BitVec.eq_of_getLsbD_eq
  intro j hj
  simp only [BitVec.getLsbD_append, BitVec.getLsbD_extractLsb', Nat.zero_add]
  split_ifs <;> rw [decide_eq_true (by omega), Bool.true_and] <;> exact congrArg r.getLsbD (by omega)

/-- The fields of an encoded label. -/
@[simp] theorem opField_encode (i : Instr) : opField (encode i) = i.op.code := by simp [encode]

@[simp] theorem selField_encode (i : Instr) : selField (encode i) = i.selBits := by simp [encode]

@[simp] theorem argField_encode (i : Instr) : argField (encode i) = i.argBits := by simp [encode]

end Sys2Proof
end

