-- ==== Sys2Proof/Laws/State.lean ====
section
/-! SUPPORT. The small lemmas of the state and its named updates: one per field per update, so that no later proof unfolds a record
update; then what the byte-level views (`buf`, `mem`, `readByte`, `tracker?`) see of each update. -/

namespace Sys2Proof.Machine

variable (s : State)

/-! ### setBuf -/

@[simp] theorem setBuf_cfg (i : BufId) (f : TxBuf) : (s.setBuf i f).cfg = s.cfg := by cases i <;> rfl
@[simp] theorem setBuf_uartInit (i : BufId) (f : TxBuf) : (s.setBuf i f).uartInit = s.uartInit := by cases i <;> rfl
@[simp] theorem setBuf_rx (i : BufId) (f : TxBuf) : (s.setBuf i f).rx = s.rx := by cases i <;> rfl
@[simp] theorem setBuf_pos (i : BufId) (f : TxBuf) : (s.setBuf i f).pos = s.pos := by cases i <;> rfl
@[simp] theorem setBuf_reg (i : BufId) (f : TxBuf) : (s.setBuf i f).reg = s.reg := by cases i <;> rfl
@[simp] theorem setBuf_nc (i : BufId) (f : TxBuf) : (s.setBuf i f).nc = s.nc := by cases i <;> rfl
@[simp] theorem setBuf_ic (i : BufId) (f : TxBuf) : (s.setBuf i f).ic = s.ic := by cases i <;> rfl
@[simp] theorem setBuf_evq (i : BufId) (f : TxBuf) : (s.setBuf i f).evq = s.evq := by cases i <;> rfl
@[simp] theorem setBuf_fault (i : BufId) (f : TxBuf) : (s.setBuf i f).fault = s.fault := by cases i <;> rfl
@[simp] theorem setBuf_obs (i : BufId) (f : TxBuf) : (s.setBuf i f).obs = s.obs := by cases i <;> rfl
@[simp] theorem setBuf_inp (i : BufId) (f : TxBuf) : (s.setBuf i f).inp = s.inp := by cases i <;> rfl

/-! ### setMem -/

@[simp] theorem setMem_cfg (sp : Space) (m : Memory) : (s.setMem sp m).cfg = s.cfg := by cases sp <;> rfl
@[simp] theorem setMem_uartInit (sp : Space) (m : Memory) : (s.setMem sp m).uartInit = s.uartInit := by cases sp <;> rfl
@[simp] theorem setMem_pos (sp : Space) (m : Memory) : (s.setMem sp m).pos = s.pos := by cases sp <;> rfl
@[simp] theorem setMem_reg (sp : Space) (m : Memory) : (s.setMem sp m).reg = s.reg := by cases sp <;> rfl
@[simp] theorem setMem_nc (sp : Space) (m : Memory) : (s.setMem sp m).nc = s.nc := by cases sp <;> rfl
@[simp] theorem setMem_ic (sp : Space) (m : Memory) : (s.setMem sp m).ic = s.ic := by cases sp <;> rfl
@[simp] theorem setMem_evq (sp : Space) (m : Memory) : (s.setMem sp m).evq = s.evq := by cases sp <;> rfl
@[simp] theorem setMem_fault (sp : Space) (m : Memory) : (s.setMem sp m).fault = s.fault := by cases sp <;> rfl
@[simp] theorem setMem_obs (sp : Space) (m : Memory) : (s.setMem sp m).obs = s.obs := by cases sp <;> rfl
@[simp] theorem setMem_inp (sp : Space) (m : Memory) : (s.setMem sp m).inp = s.inp := by cases sp <;> rfl

/-! ### respond -/

@[simp] theorem respond_cfg (st : BitVec 8) (v : BitVec 32) : (respond s st v).cfg = s.cfg := rfl
@[simp] theorem respond_uartInit (st : BitVec 8) (v : BitVec 32) : (respond s st v).uartInit = s.uartInit := rfl
@[simp] theorem respond_tx (st : BitVec 8) (v : BitVec 32) : (respond s st v).tx = s.tx := rfl
@[simp] theorem respond_rx (st : BitVec 8) (v : BitVec 32) : (respond s st v).rx = s.rx := rfl
@[simp] theorem respond_pos (st : BitVec 8) (v : BitVec 32) : (respond s st v).pos = s.pos := rfl
@[simp] theorem respond_reg (st : BitVec 8) (v : BitVec 32) : (respond s st v).reg = s.reg := rfl
@[simp] theorem respond_nc (st : BitVec 8) (v : BitVec 32) : (respond s st v).nc = { s.nc with op := .none } := rfl
@[simp] theorem respond_ic (st : BitVec 8) (v : BitVec 32) : (respond s st v).ic = s.ic := rfl
@[simp] theorem respond_evq (st : BitVec 8) (v : BitVec 32) : (respond s st v).evq = s.evq := rfl
@[simp] theorem respond_fault (st : BitVec 8) (v : BitVec 32) : (respond s st v).fault = s.fault := rfl
@[simp] theorem respond_obs (st : BitVec 8) (v : BitVec 32) : (respond s st v).obs = { s.obs with resp := s.obs.resp ++ [respWord st v] } := rfl
@[simp] theorem respond_inp (st : BitVec 8) (v : BitVec 32) : (respond s st v).inp = s.inp := rfl

/-! ### emitTx -/

@[simp] theorem emitTx_cfg (b : Byte) : (emitTx s b).cfg = s.cfg := rfl
@[simp] theorem emitTx_uartInit (b : Byte) : (emitTx s b).uartInit = s.uartInit := rfl
@[simp] theorem emitTx_tx (b : Byte) : (emitTx s b).tx = s.tx := rfl
@[simp] theorem emitTx_rx (b : Byte) : (emitTx s b).rx = s.rx := rfl
@[simp] theorem emitTx_pos (b : Byte) : (emitTx s b).pos = s.pos := rfl
@[simp] theorem emitTx_reg (b : Byte) : (emitTx s b).reg = s.reg := rfl
@[simp] theorem emitTx_nc (b : Byte) : (emitTx s b).nc = s.nc := rfl
@[simp] theorem emitTx_ic (b : Byte) : (emitTx s b).ic = s.ic := rfl
@[simp] theorem emitTx_evq (b : Byte) : (emitTx s b).evq = s.evq := rfl
@[simp] theorem emitTx_fault (b : Byte) : (emitTx s b).fault = s.fault := rfl
@[simp] theorem emitTx_obs (b : Byte) : (emitTx s b).obs = { s.obs with txStream := s.obs.txStream ++ [b] } := rfl
@[simp] theorem emitTx_inp (b : Byte) : (emitTx s b).inp = s.inp := rfl

/-! ### logCb -/

@[simp] theorem logCb_cfg (c : CbCtx) : (logCb s c).cfg = s.cfg := rfl
@[simp] theorem logCb_uartInit (c : CbCtx) : (logCb s c).uartInit = s.uartInit := rfl
@[simp] theorem logCb_tx (c : CbCtx) : (logCb s c).tx = s.tx := rfl
@[simp] theorem logCb_rx (c : CbCtx) : (logCb s c).rx = s.rx := rfl
@[simp] theorem logCb_pos (c : CbCtx) : (logCb s c).pos = s.pos := rfl
@[simp] theorem logCb_reg (c : CbCtx) : (logCb s c).reg = s.reg := rfl
@[simp] theorem logCb_nc (c : CbCtx) : (logCb s c).nc = s.nc := rfl
@[simp] theorem logCb_ic (c : CbCtx) : (logCb s c).ic = s.ic := rfl
@[simp] theorem logCb_evq (c : CbCtx) : (logCb s c).evq = s.evq := rfl
@[simp] theorem logCb_fault (c : CbCtx) : (logCb s c).fault = s.fault := rfl
@[simp] theorem logCb_obs (c : CbCtx) : (logCb s c).obs = { s.obs with cbLog := s.obs.cbLog ++ [c] } := rfl
@[simp] theorem logCb_inp (c : CbCtx) : (logCb s c).inp = s.inp := rfl

/-! ### logDiag -/

@[simp] theorem logDiag_cfg (d : BitVec 8) : (logDiag s d).cfg = s.cfg := rfl
@[simp] theorem logDiag_uartInit (d : BitVec 8) : (logDiag s d).uartInit = s.uartInit := rfl
@[simp] theorem logDiag_tx (d : BitVec 8) : (logDiag s d).tx = s.tx := rfl
@[simp] theorem logDiag_rx (d : BitVec 8) : (logDiag s d).rx = s.rx := rfl
@[simp] theorem logDiag_pos (d : BitVec 8) : (logDiag s d).pos = s.pos := rfl
@[simp] theorem logDiag_reg (d : BitVec 8) : (logDiag s d).reg = s.reg := rfl
@[simp] theorem logDiag_nc (d : BitVec 8) : (logDiag s d).nc = s.nc := rfl
@[simp] theorem logDiag_ic (d : BitVec 8) : (logDiag s d).ic = s.ic := rfl
@[simp] theorem logDiag_evq (d : BitVec 8) : (logDiag s d).evq = s.evq := rfl
@[simp] theorem logDiag_fault (d : BitVec 8) : (logDiag s d).fault = s.fault := rfl
@[simp] theorem logDiag_obs (d : BitVec 8) : (logDiag s d).obs = { s.obs with diagLog := s.obs.diagLog ++ [d] } := rfl
@[simp] theorem logDiag_inp (d : BitVec 8) : (logDiag s d).inp = s.inp := rfl

/-! ### startTransfer -/

@[simp] theorem startTransfer_cfg (i : BufId) : (startTransfer s i).cfg = s.cfg := rfl
@[simp] theorem startTransfer_uartInit (i : BufId) : (startTransfer s i).uartInit = s.uartInit := rfl
@[simp] theorem startTransfer_tx (i : BufId) : (startTransfer s i).tx = { s.tx with
      dtx := { en := true, src := some i, len := (s.buf i).fill, rem := (s.buf i).fill }
      de := if s.tx.hd then .tx else s.tx.de } := rfl
@[simp] theorem startTransfer_rx (i : BufId) : (startTransfer s i).rx = s.rx := rfl
@[simp] theorem startTransfer_pos (i : BufId) : (startTransfer s i).pos = s.pos := rfl
@[simp] theorem startTransfer_reg (i : BufId) : (startTransfer s i).reg = s.reg := rfl
@[simp] theorem startTransfer_nc (i : BufId) : (startTransfer s i).nc = s.nc := rfl
@[simp] theorem startTransfer_ic (i : BufId) : (startTransfer s i).ic = s.ic := rfl
@[simp] theorem startTransfer_evq (i : BufId) : (startTransfer s i).evq = s.evq := rfl
@[simp] theorem startTransfer_fault (i : BufId) : (startTransfer s i).fault = s.fault := rfl
@[simp] theorem startTransfer_obs (i : BufId) : (startTransfer s i).obs = s.obs := rfl
@[simp] theorem startTransfer_inp (i : BufId) : (startTransfer s i).inp = s.inp := rfl

/-! ### setNcPc -/

@[simp] theorem setNcPc_cfg (p : NcPhase) : (setNcPc s p).cfg = s.cfg := rfl
@[simp] theorem setNcPc_uartInit (p : NcPhase) : (setNcPc s p).uartInit = s.uartInit := rfl
@[simp] theorem setNcPc_tx (p : NcPhase) : (setNcPc s p).tx = s.tx := rfl
@[simp] theorem setNcPc_rx (p : NcPhase) : (setNcPc s p).rx = s.rx := rfl
@[simp] theorem setNcPc_pos (p : NcPhase) : (setNcPc s p).pos = s.pos := rfl
@[simp] theorem setNcPc_reg (p : NcPhase) : (setNcPc s p).reg = s.reg := rfl
@[simp] theorem setNcPc_nc (p : NcPhase) : (setNcPc s p).nc = { s.nc with pc := p } := rfl
@[simp] theorem setNcPc_ic (p : NcPhase) : (setNcPc s p).ic = s.ic := rfl
@[simp] theorem setNcPc_evq (p : NcPhase) : (setNcPc s p).evq = s.evq := rfl
@[simp] theorem setNcPc_fault (p : NcPhase) : (setNcPc s p).fault = s.fault := rfl
@[simp] theorem setNcPc_obs (p : NcPhase) : (setNcPc s p).obs = s.obs := rfl
@[simp] theorem setNcPc_inp (p : NcPhase) : (setNcPc s p).inp = s.inp := rfl

/-! ### setIcPc -/

@[simp] theorem setIcPc_cfg (p : IcPhase) : (setIcPc s p).cfg = s.cfg := rfl
@[simp] theorem setIcPc_uartInit (p : IcPhase) : (setIcPc s p).uartInit = s.uartInit := rfl
@[simp] theorem setIcPc_tx (p : IcPhase) : (setIcPc s p).tx = s.tx := rfl
@[simp] theorem setIcPc_rx (p : IcPhase) : (setIcPc s p).rx = s.rx := rfl
@[simp] theorem setIcPc_pos (p : IcPhase) : (setIcPc s p).pos = s.pos := rfl
@[simp] theorem setIcPc_reg (p : IcPhase) : (setIcPc s p).reg = s.reg := rfl
@[simp] theorem setIcPc_nc (p : IcPhase) : (setIcPc s p).nc = s.nc := rfl
@[simp] theorem setIcPc_ic (p : IcPhase) : (setIcPc s p).ic = { s.ic with pc := p } := rfl
@[simp] theorem setIcPc_evq (p : IcPhase) : (setIcPc s p).evq = s.evq := rfl
@[simp] theorem setIcPc_fault (p : IcPhase) : (setIcPc s p).fault = s.fault := rfl
@[simp] theorem setIcPc_obs (p : IcPhase) : (setIcPc s p).obs = s.obs := rfl
@[simp] theorem setIcPc_inp (p : IcPhase) : (setIcPc s p).inp = s.inp := rfl

/-! ### enterHandler -/

@[simp] theorem enterHandler_cfg (h : Handler) (p : IcPhase) : (enterHandler s h p).cfg = s.cfg := rfl
@[simp] theorem enterHandler_uartInit (h : Handler) (p : IcPhase) : (enterHandler s h p).uartInit = s.uartInit := rfl
@[simp] theorem enterHandler_tx (h : Handler) (p : IcPhase) : (enterHandler s h p).tx = s.tx := rfl
@[simp] theorem enterHandler_rx (h : Handler) (p : IcPhase) : (enterHandler s h p).rx = s.rx := rfl
@[simp] theorem enterHandler_pos (h : Handler) (p : IcPhase) : (enterHandler s h p).pos = s.pos := rfl
@[simp] theorem enterHandler_reg (h : Handler) (p : IcPhase) : (enterHandler s h p).reg = s.reg := rfl
@[simp] theorem enterHandler_nc (h : Handler) (p : IcPhase) : (enterHandler s h p).nc = s.nc := rfl
@[simp] theorem enterHandler_ic (h : Handler) (p : IcPhase) : (enterHandler s h p).ic = { s.ic with h := h, pc := p } := rfl
@[simp] theorem enterHandler_evq (h : Handler) (p : IcPhase) : (enterHandler s h p).evq = s.evq := rfl
@[simp] theorem enterHandler_fault (h : Handler) (p : IcPhase) : (enterHandler s h p).fault = s.fault := rfl
@[simp] theorem enterHandler_obs (h : Handler) (p : IcPhase) : (enterHandler s h p).obs = s.obs := rfl
@[simp] theorem enterHandler_inp (h : Handler) (p : IcPhase) : (enterHandler s h p).inp = s.inp := rfl

/-! ### leaveHandler -/

@[simp] theorem leaveHandler_cfg : (leaveHandler s).cfg = s.cfg := rfl
@[simp] theorem leaveHandler_uartInit : (leaveHandler s).uartInit = s.uartInit := rfl
@[simp] theorem leaveHandler_tx : (leaveHandler s).tx = s.tx := rfl
@[simp] theorem leaveHandler_rx : (leaveHandler s).rx = s.rx := rfl
@[simp] theorem leaveHandler_pos : (leaveHandler s).pos = s.pos := rfl
@[simp] theorem leaveHandler_reg : (leaveHandler s).reg = s.reg := rfl
@[simp] theorem leaveHandler_nc : (leaveHandler s).nc = s.nc := rfl
@[simp] theorem leaveHandler_ic : (leaveHandler s).ic = { s.ic with h := .none } := rfl
@[simp] theorem leaveHandler_evq : (leaveHandler s).evq = s.evq := rfl
@[simp] theorem leaveHandler_fault : (leaveHandler s).fault = s.fault := rfl
@[simp] theorem leaveHandler_obs : (leaveHandler s).obs = s.obs := rfl
@[simp] theorem leaveHandler_inp : (leaveHandler s).inp = s.inp := rfl

/-! ### raiseChannelMismatch -/

@[simp] theorem raiseChannelMismatch_cfg : (raiseChannelMismatch s).cfg = s.cfg := rfl
@[simp] theorem raiseChannelMismatch_uartInit : (raiseChannelMismatch s).uartInit = s.uartInit := rfl
@[simp] theorem raiseChannelMismatch_tx : (raiseChannelMismatch s).tx = s.tx := rfl
@[simp] theorem raiseChannelMismatch_rx : (raiseChannelMismatch s).rx = s.rx := rfl
@[simp] theorem raiseChannelMismatch_pos : (raiseChannelMismatch s).pos = s.pos := rfl
@[simp] theorem raiseChannelMismatch_reg : (raiseChannelMismatch s).reg = s.reg := rfl
@[simp] theorem raiseChannelMismatch_nc : (raiseChannelMismatch s).nc = s.nc := rfl
@[simp] theorem raiseChannelMismatch_ic : (raiseChannelMismatch s).ic = s.ic := rfl
@[simp] theorem raiseChannelMismatch_evq : (raiseChannelMismatch s).evq = s.evq := rfl
@[simp] theorem raiseChannelMismatch_fault : (raiseChannelMismatch s).fault = .channelMismatch := rfl
@[simp] theorem raiseChannelMismatch_obs : (raiseChannelMismatch s).obs = s.obs := rfl
@[simp] theorem raiseChannelMismatch_inp : (raiseChannelMismatch s).inp = s.inp := rfl

/-! ### setTracker -/

@[simp] theorem setTracker_cfg (t : Nat) (p : Tracker) : (s.setTracker t p).cfg = s.cfg := rfl
@[simp] theorem setTracker_uartInit (t : Nat) (p : Tracker) : (s.setTracker t p).uartInit = s.uartInit := rfl
@[simp] theorem setTracker_tx (t : Nat) (p : Tracker) : (s.setTracker t p).tx = s.tx := rfl
@[simp] theorem setTracker_rx (t : Nat) (p : Tracker) : (s.setTracker t p).rx = s.rx := rfl
@[simp] theorem setTracker_pos (t : Nat) (p : Tracker) : (s.setTracker t p).pos = s.pos.set t p := rfl
@[simp] theorem setTracker_reg (t : Nat) (p : Tracker) : (s.setTracker t p).reg = s.reg := rfl
@[simp] theorem setTracker_nc (t : Nat) (p : Tracker) : (s.setTracker t p).nc = s.nc := rfl
@[simp] theorem setTracker_ic (t : Nat) (p : Tracker) : (s.setTracker t p).ic = s.ic := rfl
@[simp] theorem setTracker_evq (t : Nat) (p : Tracker) : (s.setTracker t p).evq = s.evq := rfl
@[simp] theorem setTracker_fault (t : Nat) (p : Tracker) : (s.setTracker t p).fault = s.fault := rfl
@[simp] theorem setTracker_obs (t : Nat) (p : Tracker) : (s.setTracker t p).obs = s.obs := rfl
@[simp] theorem setTracker_inp (t : Nat) (p : Tracker) : (s.setTracker t p).inp = s.inp := rfl

/-! ### dropPayload -/

@[simp] theorem dropPayload_cfg (n : BitVec 32) : (s.dropPayload n).cfg = s.cfg := rfl
@[simp] theorem dropPayload_uartInit (n : BitVec 32) : (s.dropPayload n).uartInit = s.uartInit := rfl
@[simp] theorem dropPayload_tx (n : BitVec 32) : (s.dropPayload n).tx = s.tx := rfl
@[simp] theorem dropPayload_rx (n : BitVec 32) : (s.dropPayload n).rx = s.rx := rfl
@[simp] theorem dropPayload_pos (n : BitVec 32) : (s.dropPayload n).pos = s.pos := rfl
@[simp] theorem dropPayload_reg (n : BitVec 32) : (s.dropPayload n).reg = s.reg := rfl
@[simp] theorem dropPayload_nc (n : BitVec 32) : (s.dropPayload n).nc = s.nc := rfl
@[simp] theorem dropPayload_ic (n : BitVec 32) : (s.dropPayload n).ic = s.ic := rfl
@[simp] theorem dropPayload_evq (n : BitVec 32) : (s.dropPayload n).evq = s.evq := rfl
@[simp] theorem dropPayload_fault (n : BitVec 32) : (s.dropPayload n).fault = s.fault := rfl
@[simp] theorem dropPayload_obs (n : BitVec 32) : (s.dropPayload n).obs = s.obs := rfl
@[simp] theorem dropPayload_inp (n : BitVec 32) : (s.dropPayload n).inp = { s.inp with wdata := s.inp.wdata.drop n.toNat } := rfl

/-! ### The views of a Buffer, of a memory and of a tracker -/

@[simp] theorem buf_setBuf_same (i : BufId) (f : TxBuf) : (s.setBuf i f).buf i = f := by cases i <;> rfl

theorem buf_setBuf_other {i j : BufId} (f : TxBuf) (h : j ≠ i) : (s.setBuf i f).buf j = s.buf j := by
  cases i <;> cases j <;> first | rfl | exact absurd rfl h

@[simp] theorem setBuf_dtx (i : BufId) (f : TxBuf) : (s.setBuf i f).tx.dtx = s.tx.dtx := by cases i <;> rfl
@[simp] theorem setBuf_inFlight (i : BufId) (f : TxBuf) : (s.setBuf i f).tx.inFlight = s.tx.inFlight := by cases i <;> rfl
@[simp] theorem setBuf_tcif (i : BufId) (f : TxBuf) : (s.setBuf i f).tx.tcif = s.tx.tcif := by cases i <;> rfl
@[simp] theorem setBuf_tc (i : BufId) (f : TxBuf) : (s.setBuf i f).tx.tc = s.tx.tc := by cases i <;> rfl
@[simp] theorem setBuf_txe (i : BufId) (f : TxBuf) : (s.setBuf i f).tx.txe = s.tx.txe := by cases i <;> rfl
@[simp] theorem setBuf_tdr (i : BufId) (f : TxBuf) : (s.setBuf i f).tx.tdr = s.tx.tdr := by cases i <;> rfl
@[simp] theorem setBuf_hd (i : BufId) (f : TxBuf) : (s.setBuf i f).tx.hd = s.tx.hd := by cases i <;> rfl
@[simp] theorem setBuf_de (i : BufId) (f : TxBuf) : (s.setBuf i f).tx.de = s.tx.de := by cases i <;> rfl

/-- The memory of Buffer `i` is the space `TXB(i)`. -/
theorem buf_mem_eq (i : BufId) : (s.buf i).mem = s.mem i.space := by cases i <;> rfl

@[simp] theorem mem_setMem_same (sp : Space) (m : Memory) : (s.setMem sp m).mem sp = m := by cases sp <;> rfl

theorem mem_setMem_other {sp sq : Space} (m : Memory) (h : sq ≠ sp) : (s.setMem sp m).mem sq = s.mem sq := by
  cases sp <;> cases sq <;> first | rfl | exact absurd rfl h

/-- Replacing a Buffer's cursor and flag leaves every memory as it was. -/
@[simp] theorem mem_setBuf_keep (i : BufId) (n : Nat) (b : Bool) (sp : Space) :
    (s.setBuf i { mem := (s.buf i).mem, fill := n, busy := b }).mem sp = s.mem sp := by
  cases i <;> cases sp <;> rfl

@[simp] theorem buf_setMem_fill (sp : Space) (m : Memory) (i : BufId) : ((s.setMem sp m).buf i).fill = (s.buf i).fill := by
  cases sp <;> cases i <;> rfl

@[simp] theorem buf_setMem_busy (sp : Space) (m : Memory) (i : BufId) : ((s.setMem sp m).buf i).busy = (s.buf i).busy := by
  cases sp <;> cases i <;> rfl

/-- The memories are a view of `tx` and `rx` alone. -/
theorem mem_congr {s t : State} (htx : t.tx = s.tx) (hrx : t.rx = s.rx) (sp : Space) : t.mem sp = s.mem sp := by
  cases sp <;> simp [State.mem, htx, hrx]

/-- The Buffers are a view of `tx` alone. -/
theorem buf_congr {s t : State} (htx : t.tx = s.tx) (i : BufId) : t.buf i = s.buf i := by
  cases i <;> simp [State.buf, htx]

/-- A tracker is a view of `cfg` and `pos` alone. -/
theorem tracker_congr {s t : State} (hc : t.cfg = s.cfg) (hp : t.pos = s.pos) (k : Nat) : t.tracker? k = s.tracker? k := by
  simp [State.tracker?, hc, hp]

/-- Two different Buffers have different spaces. -/
theorem BufId.space_inj {i j : BufId} (h : i.space = j.space) : i = j := by
  cases i <;> cases j <;> simp_all [BufId.space]

@[simp] theorem BufId.other_ne (i : BufId) : i.other ≠ i := by cases i <;> simp [BufId.other]

@[simp] theorem BufId.other_other (i : BufId) : i.other.other = i := by cases i <;> rfl

/-- The tracker just written. -/
theorem tracker_setTracker_same {t : Nat} {p q : Tracker} (h : s.tracker? t = some p) :
    (s.setTracker t q).tracker? t = some q := by
  unfold State.tracker? at h ⊢
  split at h
  · obtain ⟨hl, -⟩ := List.getElem?_eq_some_iff.mp h
    simp_all [State.setTracker]
  · cases h

/-- Every other tracker is as before. -/
theorem tracker_setTracker_other {t u : Nat} (q : Tracker) (h : u ≠ t) :
    (s.setTracker t q).tracker? u = s.tracker? u := by
  simp [State.tracker?, State.setTracker, List.getElem?_set_ne (Ne.symm h)]

end Sys2Proof.Machine
end

