-- ==== Sys2Proof/Laws/Memory.lean ====
section
/-! SUPPORT. The laws of a byte memory (20_memory R80, R85): read after write, and that the canonical form is kept. -/

namespace Sys2Proof.Machine

@[simp] theorem read_nil (a : Nat) : Memory.read [] a = none := rfl

theorem read_cons (c : Host.Cell) (m : Memory) (a : Nat) :
    Memory.read (c :: m) a = if c.1 = a then some c.2 else Memory.read m a := rfl

/-- Reading the place just written gives the byte written. -/
@[simp] theorem read_write_same (m : Memory) (a : Nat) (b : Byte) : (m.write a b).read a = some b := by
  induction m with
  | nil => simp [Memory.write, read_cons]
  | cons c m ih =>
    simp only [Memory.write]
    split
    · rename_i h; rw [read_cons, if_neg (by omega), ih]
    · split <;> simp [read_cons]

/-- Every other place is as before. -/
theorem read_write_other (m : Memory) {a x : Nat} (b : Byte) (h : x ≠ a) : (m.write a b).read x = m.read x := by
  induction m with
  | nil => simp [Memory.write, read_cons, Ne.symm h]
  | cons c m ih =>
    simp only [Memory.write]
    split
    · simp only [read_cons, ih]
    · split
      · rename_i h1 h2; simp [read_cons, Ne.symm h, h2]
      · rw [read_cons, if_neg (Ne.symm h)]

theorem read_write (m : Memory) (a x : Nat) (b : Byte) :
    (m.write a b).read x = if x = a then some b else m.read x := by
  split
  · rename_i h; subst h; simp
  · rename_i h; exact read_write_other m b h

/-- A written byte stays written. -/
theorem isSome_read_write {m : Memory} {x : Nat} (a : Nat) (b : Byte) (h : (m.read x).isSome = true) :
    ((m.write a b).read x).isSome = true := by
  rw [read_write]; split <;> simp_all

theorem wf_cons (c : Host.Cell) (m : Memory) :
    Memory.wf (c :: m) = true ↔ (∀ d, m.head? = some d → c.1 < d.1) ∧ Memory.wf m = true := by
  cases m <;> simp [Memory.wf]

/-- The first address after a write is the one written or the one that was first. -/
theorem head_write (m : Memory) (a : Nat) (b : Byte) (d : Host.Cell) (h : (m.write a b).head? = some d) :
    d.1 = a ∨ ∃ e, m.head? = some e ∧ e.1 = d.1 := by
  cases m with
  | nil => simp [Memory.write] at h; subst h; exact .inl rfl
  | cons c m =>
    simp only [Memory.write] at h
    split at h
    · simp at h; subst h; exact .inr ⟨c, rfl, rfl⟩
    · split at h <;> (simp at h; subst h; exact .inl rfl)

/-- A write keeps the canonical form. -/
theorem wf_write (m : Memory) (a : Nat) (b : Byte) (h : m.wf = true) : (m.write a b).wf = true := by
  induction m with
  | nil => simp [Memory.write, Memory.wf]
  | cons c m ih =>
    obtain ⟨h1, h2⟩ := (wf_cons c m).mp h
    simp only [Memory.write]
    split
    · rename_i hlt
      refine (wf_cons _ _).mpr ⟨fun d hd => ?_, ih h2⟩
      rcases head_write m a b d hd with e | ⟨e, he, hed⟩
      · omega
      · have := h1 e he; omega
    · split
      · rename_i heq
        exact (wf_cons _ _).mpr ⟨fun d hd => by have := h1 d hd; simp only; omega, h2⟩
      · refine (wf_cons _ _).mpr ⟨fun d hd => ?_, h⟩
        simp at hd; subst hd; simp only; omega

end Sys2Proof.Machine
end

