-- ==== Sys2Proof/Laws/Ops.lean ====
section
/-! SUPPORT. One lemma per shared operation that says once everything it can do; later proofs cite it and do not unfold the
operation. -/

namespace Sys2Proof.Machine

/-! ### Memory accesses -/

/-- A read that succeeds is in range and gives the byte held there; it changes nothing. -/
theorem memRead_ok {s : State} {sp : Space} {a : Nat} {b : Byte} (h : memRead s sp a = .ok b) :
    a < capacityOf s.cfg sp ∧ s.readByte sp a = some b := by
  unfold memRead at h
  split at h
  · split at h
    · rename_i h1 _ c h2; cases h; exact ⟨h1, h2⟩
    · cases h
  · cases h

theorem memRead_of {s : State} {sp : Space} {a : Nat} {b : Byte} (h1 : a < capacityOf s.cfg sp)
    (h2 : s.readByte sp a = some b) : memRead s sp a = .ok b := by simp [memRead, h1, h2]

/-- A write that succeeds is in range and changes that space's memory alone. -/
theorem memWrite_ok {s t : State} {sp : Space} {a : Nat} {b : Byte} (h : memWrite s sp a b = .ok t) :
    a < capacityOf s.cfg sp ∧ t = s.setMem sp ((s.mem sp).write a b) := by
  unfold memWrite at h
  split at h
  · rename_i h1; cases h; exact ⟨h1, rfl⟩
  · cases h

theorem memWrite_of {s : State} {sp : Space} {a : Nat} (b : Byte) (h : a < capacityOf s.cfg sp) :
    memWrite s sp a b = .ok (s.setMem sp ((s.mem sp).write a b)) := by simp [memWrite, h]

/-- What a write shows to the model's read of one byte. -/
theorem readByte_setMem_write (s : State) (sp sq : Space) (a x : Nat) (b : Byte) :
    (s.setMem sp ((s.mem sp).write a b)).readByte sq x = if sq = sp ∧ x = a then some b else s.readByte sq x := by
  unfold State.readByte
  by_cases h : sq = sp
  · subst h; simp [read_write]
  · simp [mem_setMem_other s _ h, h]

/-- The part of a state outside the four memories and the write cursor of the ring. -/
structure SameButMemory (s t : State) : Prop where
  cfg : t.cfg = s.cfg
  uartInit : t.uartInit = s.uartInit
  pos : t.pos = s.pos
  reg : t.reg = s.reg
  nc : t.nc = s.nc
  ic : t.ic = s.ic
  evq : t.evq = s.evq
  fault : t.fault = s.fault
  obs : t.obs = s.obs
  inp : t.inp = s.inp
  fill : ∀ i, (t.buf i).fill = (s.buf i).fill
  busy : ∀ i, (t.buf i).busy = (s.buf i).busy
  tx : t.tx = { s.tx with buf0 := t.tx.buf0, buf1 := t.tx.buf1 }
  rx : t.rx = { s.rx with scr := t.rx.scr, ring := t.rx.ring, wr := t.rx.wr }

theorem SameButMemory.refl (s : State) : SameButMemory s s := by
  constructor <;> first | rfl | (intro i; rfl)

theorem SameButMemory.trans {s t u : State} (h1 : SameButMemory s t) (h2 : SameButMemory t u) : SameButMemory s u where
  cfg := h2.cfg.trans h1.cfg
  uartInit := h2.uartInit.trans h1.uartInit
  pos := h2.pos.trans h1.pos
  reg := h2.reg.trans h1.reg
  nc := h2.nc.trans h1.nc
  ic := h2.ic.trans h1.ic
  evq := h2.evq.trans h1.evq
  fault := h2.fault.trans h1.fault
  obs := h2.obs.trans h1.obs
  inp := h2.inp.trans h1.inp
  fill := fun i => (h2.fill i).trans (h1.fill i)
  busy := fun i => (h2.busy i).trans (h1.busy i)
  tx := by rw [h2.tx, h1.tx]
  rx := by rw [h2.rx, h1.rx]

theorem setMem_sameButMemory (s : State) (sp : Space) (m : Memory) : SameButMemory s (s.setMem sp m) := by
  constructor <;> first | (cases sp <;> rfl) | (intro i; cases sp <;> cases i <;> rfl)

/-- A byte sequence written at ascending indices of one space: what it changes and what it leaves. -/
theorem memWriteBytes_ok {sp : Space} {bs : List Byte} : ∀ {s t : State} {a : Nat}, memWriteBytes s sp a bs = .ok t →
    SameButMemory s t ∧ t.rx.wr = s.rx.wr ∧ (bs ≠ [] → a + bs.length ≤ capacityOf s.cfg sp) ∧
    (∀ sq x, t.readByte sq x =
      if sq = sp ∧ a ≤ x ∧ x < a + bs.length then bs[x - a]? else s.readByte sq x) ∧
    (∀ sq, (s.mem sq).wf = true → (t.mem sq).wf = true) := by
  induction bs with
  | nil =>
    intro s t a h
    cases h
    refine ⟨.refl s, rfl, fun hn => absurd rfl hn, fun sq x => ?_, fun _ h => h⟩
    rw [if_neg]
    simp only [List.length_nil]
    omega
  | cons b bs ih =>
    intro s t a h
    simp only [memWriteBytes] at h
    split at h
    · rename_i s1 h1
      obtain ⟨hr, rfl⟩ := memWrite_ok h1
      obtain ⟨hs, hwr, hcap, hread, hwf⟩ := ih h
      have hs1 := setMem_sameButMemory s sp ((s.mem sp).write a b)
      refine ⟨hs1.trans hs, by rw [hwr]; cases sp <;> rfl, fun _ => ?_, fun sq x => ?_, fun sq hq => hwf sq ?_⟩
      · by_cases hb : bs = []
        · subst hb; simp; omega
        · have := hcap hb; rw [hs1.cfg] at this; simp; omega
      · rw [hread, readByte_setMem_write]
        by_cases hq : sq = sp
        · by_cases hx : x = a
          · subst hx; simp [hq]
          · by_cases hgt : a + 1 ≤ x ∧ x < a + 1 + bs.length
            · have e : x - a = (x - (a + 1)) + 1 := by omega
              rw [if_pos ⟨hq, hgt⟩, if_pos ⟨hq, by omega, by simp; omega⟩, e, List.getElem?_cons_succ]
            · rw [if_neg (fun hh => hgt hh.2), if_neg (fun hh => hx hh.2), if_neg]
              rintro ⟨-, h1, h2⟩
              simp only [List.length_cons] at h2
              omega
        · simp [hq]
      · by_cases hq' : sq = sp
        · subst hq'; simpa using wf_write _ a b hq
        · rwa [mem_setMem_other s _ hq']
    · cases h

/-- A byte sequence that fits is written. -/
theorem memWriteBytes_of {sp : Space} {bs : List Byte} : ∀ {s : State} {a : Nat}, a + bs.length ≤ capacityOf s.cfg sp →
    ∃ t, memWriteBytes s sp a bs = .ok t := by
  induction bs with
  | nil => intro s a _; exact ⟨s, rfl⟩
  | cons b bs ih =>
    intro s a h
    simp only [List.length_cons] at h
    simp only [memWriteBytes, memWrite_of (s := s) (sp := sp) b (show a < _ by omega)]
    apply ih
    rw [setMem_cfg]
    omega

/-- One byte into the ring: stored at the write cursor, which then moves on modulo `RINGCAP`. -/
theorem ringPush_ok {s t : State} {b : Byte} (h : ringPush s b = .ok t) :
    s.rx.wr < s.cfg.ringCap ∧
    t = { s with rx := { s.rx with ring := s.rx.ring.write s.rx.wr b, wr := (s.rx.wr + 1) % s.cfg.ringCap } } := by
  unfold ringPush at h
  split at h
  · rename_i s1 h1
    obtain ⟨hr, rfl⟩ := memWrite_ok h1
    cases h
    exact ⟨hr, rfl⟩
  · cases h

theorem ringPush_of {s : State} (b : Byte) (h : s.rx.wr < s.cfg.ringCap) :
    ringPush s b = .ok { s with rx :=
      { s.rx with ring := s.rx.ring.write s.rx.wr b, wr := (s.rx.wr + 1) % s.cfg.ringCap } } := by
  unfold ringPush
  rw [memWrite_of (sp := .ring) b h]
  rfl

/-- What one byte into the ring shows to the model's read of one byte. -/
theorem readByte_ringPush {s t : State} {b : Byte} (h : ringPush s b = .ok t) (sq : Space) (x : Nat) :
    t.readByte sq x = if sq = .ring ∧ x = s.rx.wr then some b else s.readByte sq x := by
  obtain ⟨-, rfl⟩ := ringPush_ok h
  cases sq <;> simp [State.readByte, State.mem, read_write]

/-- A frame copied into the ring changes the ring and its write cursor alone. -/
theorem copyFrame_frame {n : Nat} : ∀ {s t : State} {k : Nat}, copyFrame s k n = .ok t →
    t = { s with rx := { s.rx with ring := t.rx.ring, wr := t.rx.wr } } ∧ (n ≠ 0 → s.rx.wr < s.cfg.ringCap) ∧
    (s.rx.ring.wf = true → t.rx.ring.wf = true) := by
  induction n with
  | zero => intro s t k h; cases h; exact ⟨rfl, fun h => absurd rfl h, id⟩
  | succ n ih =>
    intro s t k h
    simp only [copyFrame] at h
    split at h
    · split at h
      · rename_i b _ s1 h1
        obtain ⟨hr, rfl⟩ := ringPush_ok h1
        obtain ⟨ht, -, hwf⟩ := ih h
        refine ⟨?_, fun _ => hr, fun hw => hwf (wf_write _ _ _ hw)⟩
        rw [ht]
      · cases h
    · cases h

/-- A frame whose bytes have been written is copied, into a ring whose cursor is in range. -/
theorem copyFrame_of {n : Nat} : ∀ {s : State} {k : Nat}, s.rx.wr < s.cfg.ringCap → k + n ≤ s.cfg.scratchCap →
    (∀ a, k ≤ a → a < k + n → (s.readByte .scr a).isSome = true) → ∃ t, copyFrame s k n = .ok t := by
  induction n with
  | zero => intro s k _ _ _; exact ⟨s, rfl⟩
  | succ n ih =>
    intro s k hw hk hr
    obtain ⟨b, hb⟩ := Option.isSome_iff_exists.mp (hr k (le_refl k) (by omega))
    simp only [copyFrame, memRead_of (sp := .scr) (show k < capacityOf s.cfg .scr by simp only [capacityOf]; omega) hb,
      ringPush_of b hw]
    apply ih
    · exact Nat.mod_lt _ (Nat.lt_of_le_of_lt (Nat.zero_le _) hw)
    · exact (by omega : k + 1 + n ≤ s.cfg.scratchCap)
    · intro a h1 h2; exact hr a (by omega) (by omega)

/-- A cursor moved on modulo a capacity comes back only after the capacity's number of moves. -/
theorem cursor_ne {w c j : Nat} (hw : w < c) (h1 : 1 ≤ j) (h2 : j < c) : w ≠ (w + j) % c := by
  intro h
  by_cases hc : w + j < c
  · rw [Nat.mod_eq_of_lt hc] at h; omega
  · rw [Nat.mod_eq_sub_mod (by omega), Nat.mod_eq_of_lt (by omega)] at h; omega

/-- What a frame copied into the ring leaves there: the last bytes of it, in order, from the write cursor on, and every other byte as
before. -/
theorem copyFrame_ok {n : Nat} : ∀ {s t : State} {k : Nat}, copyFrame s k n = .ok t → s.rx.wr < s.cfg.ringCap →
    t.rx.wr = (s.rx.wr + n) % s.cfg.ringCap ∧
    (∀ j, j < n → n ≤ j + s.cfg.ringCap → t.rx.ring.read ((s.rx.wr + j) % s.cfg.ringCap) = s.rx.scr.read (k + j)) ∧
    (∀ a, (∀ j, j < n → a ≠ (s.rx.wr + j) % s.cfg.ringCap) → t.rx.ring.read a = s.rx.ring.read a) := by
  induction n with
  | zero =>
    intro s t k h hw
    cases h
    exact ⟨(Nat.mod_eq_of_lt hw).symm, fun j hj => absurd hj (Nat.not_lt_zero j), fun _ _ => rfl⟩
  | succ n ih =>
    intro s t k h hw
    simp only [copyFrame] at h
    split at h
    · rename_i b hb
      split at h
      · rename_i s1 h1
        obtain ⟨-, rfl⟩ := ringPush_ok h1
        have hm : ∀ j, ((s.rx.wr + 1) % s.cfg.ringCap + j) % s.cfg.ringCap = (s.rx.wr + (j + 1)) % s.cfg.ringCap := by
          intro j; rw [Nat.mod_add_mod]; congr 1; omega
        obtain ⟨i1, i2, i3⟩ := ih h (Nat.mod_lt _ (Nat.lt_of_le_of_lt (Nat.zero_le _) hw))
        simp only [hm] at i1 i2 i3
        refine ⟨i1, fun j hj hn => ?_, fun a ha => ?_⟩
        · cases j with
          | zero =>
            rw [Nat.add_zero, Nat.mod_eq_of_lt hw, i3 _ (fun j hj => cursor_ne hw (by omega) (by omega)), read_write_same,
              Nat.add_zero]
            exact (memRead_ok hb).2.symm
          | succ j => rw [i2 j (by omega) (by omega)]; congr 1; omega
        · rw [i3 a (fun j hj => ha (j + 1) (by omega)), read_write_other]
          have := ha 0 (by omega)
          rwa [Nat.add_zero, Nat.mod_eq_of_lt hw] at this
      · cases h
    · cases h

/-- One byte stored keeps every memory's canonical form. -/
theorem memWrite_wf {s t : State} {sp : Space} {a : Nat} {b : Byte} (h : memWrite s sp a b = .ok t) (sq : Space)
    (hq : (s.mem sq).wf = true) : (t.mem sq).wf = true := by
  obtain ⟨-, rfl⟩ := memWrite_ok h
  by_cases hs : sq = sp
  · subst hs; simpa using wf_write _ a b hq
  · rwa [mem_setMem_other s _ hs]

/-- One byte into the ring keeps every memory's canonical form. -/
theorem ringPush_wf {s t : State} {b : Byte} (h : ringPush s b = .ok t) (sq : Space) (hq : (s.mem sq).wf = true) :
    (t.mem sq).wf = true := by
  obtain ⟨-, rfl⟩ := ringPush_ok h
  cases sq <;> simp only [State.mem] at hq ⊢ <;> first | exact hq | exact wf_write _ _ _ hq

/-- The memories after reset are in canonical form, in every configuration. -/
theorem resetWith_wf (c : Cfg) (sp : Space) : ((State.resetWith c).mem sp).wf = true := by cases sp <;> rfl

/-! ### Guards -/

/-- A host command that answers a next state was ready, or was not taken. -/
theorem whenReady_next {s t : State} {o : Out State} (h : whenReady s o = .next t) :
    (s.cmdReady = true ∧ o = .next t) ∨ (s.cmdReady = false ∧ t = s) := by
  unfold whenReady notTaken at h
  split at h
  · rename_i hr; exact .inl ⟨hr, h⟩
  · rename_i hr; cases h; exact .inr ⟨by simpa using hr, rfl⟩

@[simp] theorem whenReady_of {s : State} {o : Out State} (h : s.cmdReady = true) : whenReady s o = o := by
  simp [whenReady, h]

@[simp] theorem whenReady_of_not {s : State} {o : Out State} (h : s.cmdReady = false) : whenReady s o = .next s := by
  simp [whenReady, h, notTaken]

theorem needsUart_next {s t : State} {o : Out State} (h : needsUart s o = .next t) : s.uartInit = true ∧ o = .next t := by
  unfold needsUart at h
  split at h
  · rename_i hr; exact ⟨hr, h⟩
  · cases h

theorem needsInited_next {p : Tracker} {t : State} {o : Out State} (h : needsInited p o = .next t) :
    p.inited = true ∧ o = .next t := by
  unfold needsInited at h
  split at h
  · rename_i hr; exact ⟨hr, h⟩
  · cases h

/-- `cmd_ready` (30_encoding R116). -/
theorem cmdReady_iff (s : State) : s.cmdReady = true ↔ s.nc.op = .none ∧ s.ic.h = .none ∧ s.fault = .none := by
  simp [State.cmdReady, and_assoc]

theorem trackerCommand_next {s t : State} {k : BitVec 8} {f : Tracker → Out State} (h : trackerCommand s k f = .next t) :
    (s.cmdReady = false ∧ t = s) ∨ (s.cmdReady = true ∧ s.tracker? k.toNat = none ∧ t = respond s statusIllegal 0) ∨
    (s.cmdReady = true ∧ ∃ p, s.tracker? k.toNat = some p ∧ f p = .next t) := by
  unfold trackerCommand at h
  rcases whenReady_next h with ⟨hr, ho⟩ | h
  · split at ho
    · rename_i p hp; exact .inr (.inr ⟨hr, p, hp, ho⟩)
    · rename_i hp; cases ho; exact .inr (.inl ⟨hr, hp, rfl⟩)
  · exact .inl h

theorem trackerEvent_next {s t : State} {k : BitVec 8} {f : Tracker → Out State} (h : trackerEvent s k f = .next t) :
    ∃ p, s.tracker? k.toNat = some p ∧ f p = .next t := by
  unfold trackerEvent at h
  split at h
  · rename_i p hp; exact ⟨p, hp, h⟩
  · cases h

/-- The configurations the machine runs are those of the spec. -/
theorem configRefusal_none_iff (c : Cfg) : configRefusal c = none ↔ c.ok = true := by
  unfold configRefusal Cfg.ok
  split
  · simp only [reduceCtorEq, false_iff, Bool.and_eq_true, decide_eq_true_eq]; omega
  · split
    · simp only [reduceCtorEq, false_iff, Bool.and_eq_true, decide_eq_true_eq]; omega
    · split
      · simp_all
      · split
        · rename_i hw
          obtain ⟨n, hn⟩ := Option.isSome_iff_exists.mp hw
          simp [hn]
        · simp_all; omega

/-! ### One step -/

/-- Everything a step that answers a next state can be. -/
theorem step_next {s t : State} (h : step s = .next t) :
    s.cfg.ok = true ∧
    ((s.inp.events = [] ∧ t = s) ∨
     ∃ e es, s.inp.events = e :: es ∧
      ((e = .rst ∧ t = resetBlock { s with inp := { s.inp with events := es } }) ∨
       ∃ w, e = .label w ∧
        ((∃ i, decode w = .ok i ∧ exec i { s with inp := { s.inp with events := es } } = .next t) ∨
         ∃ x, decode w = .error x ∧ illegalWord w x { s with inp := { s.inp with events := es } } = .next t))) := by
  unfold step at h
  split at h
  · cases h
  · rename_i hc
    refine ⟨(configRefusal_none_iff _).mp hc, ?_⟩
    unfold fetchEvent at h
    cases he : s.inp.events with
    | nil => simp only [he] at h; cases h; exact .inl ⟨rfl, rfl⟩
    | cons e es =>
      simp only [he] at h
      refine .inr ⟨e, es, rfl, ?_⟩
      cases e with
      | rst => cases h; exact .inl ⟨rfl, rfl⟩
      | label w =>
        refine .inr ⟨w, rfl, ?_⟩
        cases hd : decode w with
        | ok i => simp only [hd] at h; exact .inl ⟨i, rfl, h⟩
        | error x => simp only [hd] at h; exact .inr ⟨x, rfl, h⟩

end Sys2Proof.Machine
end

