-- ==== Sys2Proof/Laws/PerInstr.lean ====
section
/-! SUPPORT. Statements made of every label as syntax, one lemma per constructor. -/

namespace Sys2Proof.Laws.EncodeMatchesRow

/-- The word of a label has the bits of its row: under the row's mask it is the row's match (30_encoding R118, R119). -/
def Statement (i : Instr) : Prop := encode i &&& i.op.maskBits = i.op.matchBits

/-- The statement field by field: the row's mask keeps `op` and clears the operand bits. -/
theorem of_fields {i : Instr} (o : Op) (n : BitVec 8) (k : BitVec 32) (ho : i.op = o)
    (hm : o.maskBits = mkWord 0xFF n k) (hc : o.code &&& 0xFF = o.code)
    (hs : i.selBits &&& n = 0) (ha : i.argBits &&& k = 0) : Statement i := by
  unfold Statement encode
  rw [ho, hm, mkWord_and, matchBits_eq, hc, hs, ha]

theorem init (baud : BitVec 29) (parity : Parity) (hd : Bool) : Statement (.init baud parity hd) :=
  of_fields .init 0xff 0x0 rfl (by decide) (by decide) (by simp only [Instr.selBits, Instr.tracker?]; decide) (BitVec.and_zero)
theorem write (n : BitVec 32) : Statement (.write n) :=
  of_fields .write 0xff 0x0 rfl (by decide) (by decide) (by simp only [Instr.selBits, Instr.tracker?]; decide) (BitVec.and_zero)
theorem isbusy : Statement .isbusy :=
  of_fields .isbusy 0xff 0xffffffff rfl (by decide) (by decide) (by simp only [Instr.selBits, Instr.tracker?]; decide) (by simp only [Instr.argBits]; decide)
theorem chkfrm : Statement .chkfrm :=
  of_fields .chkfrm 0xff 0xffffffff rfl (by decide) (by decide) (by simp only [Instr.selBits, Instr.tracker?]; decide) (by simp only [Instr.argBits]; decide)
theorem setrxcb (cb q : Bool) : Statement (.setrxcb cb q) :=
  of_fields .setrxcb 0xff 0xfffffffc rfl (by decide) (by decide) (by simp only [Instr.selBits, Instr.tracker?]; decide) (by cases cb <;> cases q <;> decide)
theorem rxpop : Statement .rxpop :=
  of_fields .rxpop 0xff 0xffffffff rfl (by decide) (by decide) (by simp only [Instr.selBits, Instr.tracker?]; decide) (by simp only [Instr.argBits]; decide)
theorem posinit (t : BitVec 8) : Statement (.posinit t) :=
  of_fields .posinit 0x0 0xffffffff rfl (by decide) (by decide) (BitVec.and_zero) (by simp only [Instr.argBits]; decide)
theorem initall : Statement .initall :=
  of_fields .initall 0xff 0xffffffff rfl (by decide) (by decide) (by simp only [Instr.selBits, Instr.tracker?]; decide) (by simp only [Instr.argBits]; decide)
theorem setdir (t : BitVec 8) (sign : Dir) : Statement (.setdir t sign) :=
  of_fields .setdir 0x0 0x0 rfl (by decide) (by decide) (BitVec.and_zero) (BitVec.and_zero)
theorem setpos (t : BitVec 8) (target : BitVec 32) : Statement (.setpos t target) :=
  of_fields .setpos 0x0 0x0 rfl (by decide) (by decide) (BitVec.and_zero) (BitVec.and_zero)
theorem getpos (t : BitVec 8) : Statement (.getpos t) :=
  of_fields .getpos 0x0 0xffffffff rfl (by decide) (by decide) (BitVec.and_zero) (by simp only [Instr.argBits]; decide)
theorem ncstep : Statement .ncstep :=
  of_fields .ncstep 0xff 0xffffffff rfl (by decide) (by decide) (by simp only [Instr.selBits, Instr.tracker?]; decide) (by simp only [Instr.argBits]; decide)
theorem icstep : Statement .icstep :=
  of_fields .icstep 0xff 0xffffffff rfl (by decide) (by decide) (by simp only [Instr.selBits, Instr.tracker?]; decide) (by simp only [Instr.argBits]; decide)
theorem eqdisp : Statement .eqdisp :=
  of_fields .eqdisp 0xff 0xffffffff rfl (by decide) (by decide) (by simp only [Instr.selBits, Instr.tracker?]; decide) (by simp only [Instr.argBits]; decide)
theorem dtxb : Statement .dtxb :=
  of_fields .dtxb 0xff 0xffffffff rfl (by decide) (by decide) (by simp only [Instr.selBits, Instr.tracker?]; decide) (by simp only [Instr.argBits]; decide)
theorem ltc : Statement .ltc :=
  of_fields .ltc 0xff 0xffffffff rfl (by decide) (by decide) (by simp only [Instr.selBits, Instr.tracker?]; decide) (by simp only [Instr.argBits]; decide)
theorem ltxe : Statement .ltxe :=
  of_fields .ltxe 0xff 0xffffffff rfl (by decide) (by decide) (by simp only [Instr.selBits, Instr.tracker?]; decide) (by simp only [Instr.argBits]; decide)
theorem lineb (b : Byte) : Statement (.lineb b) :=
  of_fields .lineb 0xff 0xffffff00 rfl (by decide) (by decide) (by simp only [Instr.selBits, Instr.tracker?]; decide) (by revert b; decide)
theorem drxb : Statement .drxb :=
  of_fields .drxb 0xff 0xffffffff rfl (by decide) (by decide) (by simp only [Instr.selBits, Instr.tracker?]; decide) (by simp only [Instr.argBits]; decide)
theorem lidle : Statement .lidle :=
  of_fields .lidle 0xff 0xffffffff rfl (by decide) (by decide) (by simp only [Instr.selBits, Instr.tracker?]; decide) (by simp only [Instr.argBits]; decide)
theorem cntup (t : BitVec 8) : Statement (.cntup t) :=
  of_fields .cntup 0x0 0xffffffff rfl (by decide) (by decide) (BitVec.and_zero) (by simp only [Instr.argBits]; decide)
theorem cntdn (t : BitVec 8) : Statement (.cntdn t) :=
  of_fields .cntdn 0x0 0xffffffff rfl (by decide) (by decide) (BitVec.and_zero) (by simp only [Instr.argBits]; decide)
theorem irqtxc : Statement .irqtxc :=
  of_fields .irqtxc 0xff 0xffffffff rfl (by decide) (by decide) (by simp only [Instr.selBits, Instr.tracker?]; decide) (by simp only [Instr.argBits]; decide)
theorem irqidle : Statement .irqidle :=
  of_fields .irqidle 0xff 0xffffffff rfl (by decide) (by decide) (by simp only [Instr.selBits, Instr.tracker?]; decide) (by simp only [Instr.argBits]; decide)
theorem irqrxne : Statement .irqrxne :=
  of_fields .irqrxne 0xff 0xffffffff rfl (by decide) (by decide) (by simp only [Instr.selBits, Instr.tracker?]; decide) (by simp only [Instr.argBits]; decide)
theorem irqore : Statement .irqore :=
  of_fields .irqore 0xff 0xffffffff rfl (by decide) (by decide) (by simp only [Instr.selBits, Instr.tracker?]; decide) (by simp only [Instr.argBits]; decide)
theorem irqovf (t : BitVec 8) : Statement (.irqovf t) :=
  of_fields .irqovf 0x0 0xffffffff rfl (by decide) (by decide) (BitVec.and_zero) (by simp only [Instr.argBits]; decide)

end Sys2Proof.Laws.EncodeMatchesRow
end

