-- ==== Sys2Proof/Tests/Slice0.lean ====
section
/-! SUPPORT. The model's own tests: ill-formed labels refused, words written out from 30_encoding R118 and 95_test_vectors B1 decoded,
one step of each label with the value its rule's example gives, and for every statement with hypotheses a witness that meets
them (one for each clause). -/

namespace Sys2Proof.Tests

open Sys2Proof.Machine

/-! ### Helpers -/

/-- The next state, if there is one. -/
def next? : Out State → Option State
  | .next t => some t
  | .fault _ => none
  | .refused _ => none

/-- The refusal, if there is one. -/
def refusal? : Out State → Option Refusal
  | .next _ => none
  | .fault _ => none
  | .refused r => some r

/-- The fault, if there is one. -/
def fault? : Out State → Option Fault
  | .next _ => none
  | .fault f => some f
  | .refused _ => none

/-- A field of the next state. -/
def after {α : Type} (i : Instr) (s : State) (f : State → α) : Option α := (next? (exec i s)).map f

/-- Why a word spells no label. -/
def illegal? (w : LabelWord) : Option Illegal :=
  match decode w with
  | .ok _ => none
  | .error e => some e

/-- Reset, then `INIT` with no half duplex (44_init_config R250). -/
def up : State :=
  { State.reset with uartInit := true, rx := { Rx.reset Cfg.standard with drx := { en := true, rem := 8 } } }

/-- `up` in the non-DMA transmit mode and the byte receive mode (00_scope R8). -/
def upByte : State := { up with cfg := { Cfg.standard with txMode := .irq, rxMode := .byte } }

/-- A command in progress at a phase. -/
def atNc (s : State) (op : NcOp) (p : NcPhase) : State := { s with nc := { s.nc with op := op, pc := p } }

/-- A handler active at a phase. -/
def atIc (s : State) (h : Handler) (p : IcPhase) : State := { s with ic := { s.ic with h := h, pc := p } }

/-- `atNc` for a `WRITE` of `41 42 43 44 45`. -/
def writing (p : NcPhase) : State :=
  { up with nc := { up.nc with op := .write, pc := p, data := [0x41, 0x42, 0x43, 0x44, 0x45], rem := 5 } }

/-- The registers of the transmit DMA engine. -/
def withDtx (s : State) (fl : Bool) (d : Dtx) : State := { s with tx := { s.tx with inFlight := fl, dtx := d } }

/-- One tracker in place of the one after reset. -/
def withTracker (s : State) (p : Tracker) : State := { s with pos := [p] }

/-- An initialised tracker. -/
def trk (cnt ext : BitVec 16) (d : Dir) (uif : Bool) : Tracker := { cnt := cnt, ext := ext, dir := d, uif := uif, inited := true }

/-- `up` with the one tracker initialised at `(cnt, ext)`, forward. -/
def upAt (cnt ext : BitVec 16) : State := withTracker up (trk cnt ext .forward false)

/-- One word waiting at the port. -/
def withWord (s : State) (w : LabelWord) : State := { s with inp := { s.inp with events := [.label w] } }

/-- Bytes waiting on the payload port. -/
def withPayload (s : State) (bs : List Byte) : State := { s with inp := { s.inp with wdata := bs } }

/-- A transfer of one byte of Buffer 0 with its last byte to come. -/
def lastByte : State :=
  withDtx (up.setBuf .b0 { mem := [(0, 0x41)], fill := 1, busy := false }) true { en := true, src := some .b0, len := 1, rem := 1 }

/-! ### WellFormed refuses -/

theorem test_wellFormed_refuses_posinit_4 : (Instr.posinit 4).wellFormed = false := by decide
theorem test_wellFormed_refuses_setdir_4 : (Instr.setdir 4 .forward).wellFormed = false := by decide
theorem test_wellFormed_refuses_setpos_4 : (Instr.setpos 4 0).wellFormed = false := by decide
theorem test_wellFormed_refuses_getpos_255 : (Instr.getpos 255).wellFormed = false := by decide
theorem test_wellFormed_refuses_counts_4 : (Instr.cntup 4).wellFormed = false ∧ (Instr.cntdn 4).wellFormed = false := by decide
theorem test_wellFormed_refuses_irqovf_4 : (Instr.irqovf 4).wellFormed = false := by decide
theorem test_wellFormed_accepts_3 : (Instr.posinit 3).wellFormed = true ∧ (Instr.ncstep).wellFormed = true := by decide
theorem test_legalIn_bound : (Instr.setpos 0 0).legalIn Cfg.standard = true ∧ (Instr.setpos 1 0).legalIn Cfg.standard = false := by
  decide

/-! ### Words of 95_test_vectors B1.1 -/

theorem test_decode_serial :
    decodeTableWord 48 0x01000001C200 = some (.init 115200 .none false)
    ∧ decodeTableWord 48 0x01008001C200 = some (.init 115200 .none true)
    ∧ decodeTableWord 48 0x0100A0002580 = some (.init 9600 .even true)
    ∧ decodeTableWord 48 0x0100C001C200 = some (.init 115200 .odd true)
    ∧ decodeTableWord 48 0x020000000005 = some (.write 5)
    ∧ decodeTableWord 48 0x030000000000 = some .isbusy
    ∧ decodeTableWord 48 0x040000000000 = some .chkfrm
    ∧ decodeTableWord 48 0x050000000001 = some (.setrxcb true false)
    ∧ decodeTableWord 48 0x050000000002 = some (.setrxcb false true)
    ∧ decodeTableWord 48 0x060000000000 = some .rxpop := by decide

theorem test_decode_position :
    decodeTableWord 48 0x100300000000 = some (.posinit 3)
    ∧ decodeTableWord 48 0x110000000000 = some .initall
    ∧ decodeTableWord 48 0x1200FFFFFFFF = some (.setdir 0 .reversed)
    ∧ decodeTableWord 48 0x120100000001 = some (.setdir 1 .forward)
    ∧ decodeTableWord 48 0x1301FFFF0000 = some (.setpos 1 0xFFFF0000)
    ∧ decodeTableWord 48 0x140100000000 = some (.getpos 1) := by decide

theorem test_decode_sequencer :
    decodeTableWord 48 0x400000000000 = some .ncstep ∧ decodeTableWord 48 0x410000000000 = some .icstep
    ∧ decodeTableWord 48 0x420000000000 = some .eqdisp := by decide

theorem test_decode_boundary :
    decodeTableWord 48 0x800000000000 = some .dtxb ∧ decodeTableWord 48 0x810000000000 = some .ltc
    ∧ decodeTableWord 48 0x820000000000 = some .ltxe ∧ decodeTableWord 48 0x9000000000FF = some (.lineb 0xFF)
    ∧ decodeTableWord 48 0x910000000000 = some .drxb ∧ decodeTableWord 48 0x920000000000 = some .lidle
    ∧ decodeTableWord 48 0xA00100000000 = some (.cntup 1) ∧ decodeTableWord 48 0xA10000000000 = some (.cntdn 0) := by decide

theorem test_decode_dispatch :
    decodeTableWord 48 0xC00000000000 = some .irqtxc ∧ decodeTableWord 48 0xC10000000000 = some .irqidle
    ∧ decodeTableWord 48 0xC20000000000 = some .irqrxne ∧ decodeTableWord 48 0xC30000000000 = some .irqore
    ∧ decodeTableWord 48 0xC40100000000 = some (.irqovf 1) := by decide

/-- 95_test_vectors B1.3 and its last paragraph. -/
theorem test_illegal_by_name :
    illegal? 0x000000000000 = some .unassignedOp ∧ illegal? 0x070000000000 = some .unassignedOp
    ∧ illegal? 0xFF0000000000 = some .unassignedOp ∧ illegal? 0x010100000000 = some .mustBeZero
    ∧ illegal? 0x01006001C200 = some .parityReserved ∧ illegal? 0x030000000001 = some .mustBeZero
    ∧ illegal? 0x050000000004 = some .mustBeZero ∧ illegal? 0x110100000000 = some .mustBeZero
    ∧ illegal? 0x120000000000 = some .badSign ∧ illegal? 0x120000000002 = some .badSign
    ∧ illegal? 0x900000000148 = some .mustBeZero := by decide

/-- 30_encoding R110, R128: the words of B1.1 from the encoder. -/
theorem test_encode :
    encode (.init 9600 .even true) = 0x0100A0002580 ∧ encode (.setrxcb false true) = 0x050000000002
    ∧ encode (.setdir 0 .reversed) = 0x1200FFFFFFFF ∧ encode (.setpos 1 0xFFFF0000) = 0x1301FFFF0000
    ∧ encode (.lineb 0x48) = 0x900000000048 ∧ encode (.irqovf 1) = 0xC40100000000 := by decide

/-- 20_memory R83: most significant byte first. -/
theorem test_bytes : encodeBytes (.setpos 1 0x12345678) = [0x13, 0x01, 0x12, 0x34, 0x56, 0x78] := by decide

/-- 20_memory R83, 30_encoding R114: the status byte first, then the value from its most significant byte on. -/
theorem test_response_bytes : respBytes (respWord statusIllegal 0x12345678) = [0xFF, 0x12, 0x34, 0x56, 0x78] := by decide

/-! ### One step of each label -/

/-- 44_init_config R250. -/
theorem test_init :
    after (.init 115200 .none true) State.reset (fun t => (t.uartInit, t.tx.hd, t.rx.drx, t.obs.resp))
      = some (true, true, { en := true, rem := 8 }, [0]) := by decide

/-- 93 U6. -/
theorem test_init_twice : refusal? (exec (.init 1 .none false) up) = some .secondInit := by decide

/-- 40_transmit R141. -/
theorem test_write :
    after (.write 2) (withPayload up [0x41, 0x42, 0x43]) (fun t => (t.nc.op, t.nc.pc, t.nc.data, t.nc.rem, t.inp.wdata))
      = some (.write, .w0, [0x41, 0x42], 2, [0x43]) := by decide

/-- 93 U5. -/
theorem test_write_before_init : refusal? (exec (.write 0) State.reset) = some .commandBeforeInit := by decide

/-- 40_transmit R156. -/
theorem test_isbusy :
    after .isbusy (withDtx up true up.tx.dtx) (fun t => t.obs.resp) = some [0x0000000001]
    ∧ after .isbusy up (fun t => t.obs.resp) = some [0] ∧ after .isbusy upByte (fun t => t.obs.resp) = some [1] := by decide

/-- 42_frame_signal R210. -/
theorem test_chkfrm :
    after .chkfrm { up with rx := { up.rx with frame := true } } (fun t => (t.rx.frame, t.obs.resp)) = some (false, [1])
    ∧ after .chkfrm up (fun t => (t.rx.frame, t.obs.resp)) = some (false, [0]) := by decide

/-- 44_init_config R252: which bit is which. -/
theorem test_setrxcb : after (.setrxcb true false) State.reset (fun t => (t.rx.cbReg, t.rx.qAtt)) = some (true, false) := by decide

/-- 41_receive R196, its example; the cursor wraps at `RINGCAP = 16`. -/
theorem test_rxpop :
    after .rxpop { up with rx := { up.rx with ring := [(0, 0x41)], wr := 3 } } (fun t => (t.rx.rd, t.obs.resp))
      = some (1, [0x0000000141])
    ∧ after .rxpop { up with rx := { up.rx with ring := [(15, 0)], rd := 15 } } (fun t => (t.rx.rd, t.obs.resp))
      = some (0, [0x0000000100]) := by decide

/-- 10_state R61: a byte nothing has written. -/
theorem test_rxpop_unwritten :
    fault? (exec .rxpop { up with rx := { up.rx with rd := 1 } }) = some (.noValue .ring 1) := by decide

/-- 44_init_config R254. -/
theorem test_posinit :
    after (.posinit 0) State.reset (fun t => (t.pos.map (fun p => p.inited), t.obs.resp)) = some ([true], [0]) := by decide

/-- 30_encoding R120 (e), with `NTRK = 1`. -/
theorem test_posinit_illegal : after (.posinit 1) State.reset (fun t => t.obs.resp) = some [0xFF00000000] := by decide

/-- 44_init_config R255: `NTRK = 0`, and two trackers. -/
theorem test_initall :
    after .initall (State.resetWith { Cfg.standard with ntrk := 0 }) (fun t => t.obs.diagLog) = some [0x01]
    ∧ after .initall (State.resetWith { Cfg.standard with ntrk := 2 }) (fun t => t.pos.map (fun p => p.inited))
      = some [true, true] := by decide

/-- 43_position R230. -/
theorem test_setdir : after (.setdir 0 .reversed) State.reset (fun t => t.pos.map (fun p => p.dir)) = some [.reversed] := by decide

/-- 43_position R225. -/
theorem test_setpos :
    after (.setpos 0 0xFFFFFFFF) (upAt 0 0) (fun t => (t.nc.op, t.nc.pc, t.nc.val)) = some (.setpos, .s1, 0xFFFFFFFF) := by decide

/-- 43_position R228. -/
theorem test_getpos : after (.getpos 0) (upAt 0 0) (fun t => (t.nc.op, t.nc.pc)) = some (.getpos, .g1) := by decide

/-- 40_transmit R145, its example; 43_position R226, its example. -/
theorem test_ncstep :
    after .ncstep (writing .w2) (fun t => (t.nc.space, t.nc.chunk, t.nc.pc)) = some (4, 4, .w3)
    ∧ after .ncstep { upAt 7 9 with nc := { up.nc with op := .setpos, pc := .s1, val := 0xFFFFFFFF } }
      (fun t => (t.pos.map (fun p => p.ext.toInt), t.nc.e)) = some ([-1], 65535) := by decide

/-- 40_transmit R150: held. -/
theorem test_ncstep_held :
    after .ncstep { writing .b1 with tx := { up.tx with txe := false } } (fun t => t.nc.pc) = some .b1 := by decide

/-- 41_receive R185 and R187, their examples. -/
theorem test_icstep :
    after .icstep { atIc up .idle .i2 with rx := { up.rx with drx := { en := true, rem := 5 } } } (fun t => (t.rx.drx.en, t.ic.len))
      = some (false, 3)
    ∧ after .icstep { up with ic := { up.ic with h := .idle, pc := .i4, len := 3 }
                              rx := { up.rx with scr := [(0, 0x41), (1, 0x42), (2, 0x43)], wr := 14 } }
        (fun t => (t.rx.ring, t.rx.wr)) = some ([(0, 0x43), (14, 0x41), (15, 0x42)], 1) := by decide

/-- 60_exceptions R266: the source register names no Buffer. -/
theorem test_icstep_mismatch :
    after .icstep (atIc up .txc .t2) (fun t => (t.fault, t.ic.pc)) = some (.channelMismatch, .t2) := by decide

/-- 40_transmit R165, 90_conflicts C8: with `tx.tc = 1` the line turns, but not while a chained transfer has a byte to move. -/
theorem test_icstep_turn :
    after .icstep { atIc up .txc .t6 with tx := { up.tx with hd := true, de := .tx } } (fun t => (t.tx.de, t.ic.h))
      = some (.rx, .none)
    ∧ after .icstep { atIc lastByte .txc .t6 with tx := { lastByte.tx with hd := true, de := .tx } } (fun t => (t.tx.de, t.ic.h))
      = some (.tx, .txc) := by decide

/-- 41_receive R194, its example. -/
theorem test_eqdisp : after .eqdisp { up with evq := 1 } (fun t => (t.evq, t.obs.cbLog)) = some (0, [.normal]) := by decide

/-- 40_transmit R152. -/
theorem test_dtxb :
    after .dtxb lastByte (fun t => (t.obs.txStream, t.tx.dtx.rem, t.tx.tc, t.tx.tcif)) = some ([0x41], 0, false, true) := by decide

/-- 40_transmit R153. -/
theorem test_ltc :
    after .ltc { up with tx := { up.tx with tc := false } } (fun t => t.tx.tc) = some true
    ∧ after .ltc (withDtx { up with tx := { up.tx with tc := false } } true { en := true, src := some .b0, len := 1, rem := 1 })
      (fun t => t.tx.tc) = some false := by decide

/-- 40_transmit R154. -/
theorem test_ltxe :
    after .ltxe { upByte with tx := { up.tx with txe := false, tdr := 0x41 } } (fun t => (t.tx.txe, t.obs.txStream))
      = some (true, [0x41]) := by decide

/-- 41_receive R180, its example. -/
theorem test_lineb :
    after (.lineb 0x41) up (fun t => (t.rx.rdr, t.rx.rxne)) = some (0x41, true)
    ∧ after (.lineb 0x42) { up with rx := { up.rx with rdr := 0x41, rxne := true } } (fun t => (t.rx.rdr, t.rx.ore))
      = some (0x41, true) := by decide

/-- 41_receive R182, its example, and the reload. -/
theorem test_drxb :
    after .drxb { up with rx := { up.rx with rdr := 0x41, rxne := true } } (fun t => (t.rx.scr, t.rx.drx.rem, t.rx.rxne))
      = some ([(0, 0x41)], 7, false)
    ∧ after .drxb { up with rx := { up.rx with drx := { en := true, rem := 1 }, rxne := true } } (fun t => (t.rx.scr, t.rx.drx.rem))
      = some ([(7, 0)], 8) := by decide

/-- 41_receive R181. -/
theorem test_lidle : after .lidle up (fun t => t.rx.idle) = some true := by decide

/-- 43_position R220, its example. -/
theorem test_cntup : after (.cntup 0) (upAt 65535 0) (fun t => t.pos) = some [trk 0 0 .forward true] := by decide

/-- 43_position R221, its example. -/
theorem test_cntdn : after (.cntdn 0) (upAt 0 0) (fun t => t.pos) = some [trk 65535 0 .forward true] := by decide

/-- A counter step of a tracker the configuration does not have (95_test_vectors B1.3, last sentence). -/
theorem test_cntup_not_a_label : refusal? (exec (.cntup 1) (upAt 0 0)) = some .notALabel := by decide

/-- A completed transfer of Buffer 0. -/
def completed : State :=
  { lastByte with tx := { lastByte.tx with tcif := true, dtx := { en := true, src := some .b0, len := 1, rem := 0 } } }

/-- 40_transmit R155. -/
theorem test_irqtxc : after .irqtxc completed (fun t => (t.ic.h, t.ic.pc, t.tx.tcif)) = some (.txc, .t1, true) := by decide

/-- 00_scope R11, 60_exceptions R272: a source standing before it in `IRQ_PRIO` requests too. -/
theorem test_irqtxc_outranked :
    after .irqtxc { completed with
        rx := { completed.rx with idle := true }
        cfg := { Cfg.standard with irqPrio := { order := [.idle, .txc], nesting := false } } }
      (fun t => t.ic.h) = some .none := by decide

/-- 41_receive R183. -/
theorem test_irqidle : after .irqidle { up with rx := { up.rx with idle := true } } (fun t => (t.ic.h, t.ic.pc)) = some (.idle, .i1) := by
  decide

/-- 41_receive R191: in byte mode only. -/
theorem test_irqrxne :
    after .irqrxne { upByte with rx := { up.rx with rxne := true } } (fun t => t.ic.h) = some .rxne
    ∧ after .irqrxne { up with rx := { up.rx with rxne := true } } (fun t => t.ic.h) = some .none := by decide

/-- 41_receive R192. -/
theorem test_irqore : after .irqore { up with rx := { up.rx with ore := true } } (fun t => (t.ic.h, t.ic.pc)) = some (.ore, .e1) := by
  decide

/-- 43_position R222. -/
theorem test_irqovf :
    after (.irqovf 0) (withTracker up (trk 0 0 .forward true)) (fun t => (t.ic.h, t.ic.pc, t.ic.t)) = some (.ovf, .o1, 0) := by decide

/-- 00_scope R19 with 44_init_config R250: the step that takes an `INIT` word runs it. -/
theorem test_step_runs : (next? (step (State.reset.withFetchWord 48 0x01000001C200))).map (fun t => t.uartInit) = some true := by decide

/-- 93 U7, U12. -/
theorem test_step_refuses_configurations :
    refusal? (step (State.resetWith { Cfg.standard with ntrk := 5 })) = some .tooManyTrackers
    ∧ refusal? (step (State.resetWith { Cfg.standard with irqPrio := { order := [], nesting := true } })) = some .nestedHandlers := by
  decide

/-- 44_init_config R250 with 30_encoding R116: `INIT` loads the receive count in DMA mode only, and only when it is accepted. -/
theorem test_drx_rem_load :
    drxRemLoads (.init 9600 .none false) State.reset = true ∧ drxRemLoads (.init 9600 .none false) up = false
    ∧ drxRemLoads (.init 9600 .none false) { upByte with uartInit := false } = false
    ∧ drxRemLoads .icstep (atIc up .idle .i3) = true ∧ drxRemLoads .drxb up = false := by decide

/-! ### Witnesses: the hypotheses of each statement, met together; one for each clause -/

theorem witness_EncodeOfDecode : decode 0x1301FFFF0000 = .ok (.setpos 1 0xFFFF0000) := by rfl

theorem witness_StepRunsDecodedLabel :
    (withWord up 0x400000000000).cfg.ok = true ∧ (withWord up 0x400000000000).inp.events = [.label 0x400000000000]
    ∧ illegal? 0x400000000000 = none := by decide
theorem witness_StepRunsDecodedLabel_empty : up.cfg.ok = true ∧ up.inp.events = [] := by decide

theorem witness_IllegalWordAnswered_ready :
    (withWord up 0x030000000001).cfg.ok = true ∧ (withWord up 0x030000000001).inp.events = [.label 0x030000000001]
    ∧ illegal? 0x030000000001 = some .mustBeZero ∧ isHostClass 0x030000000001 = true
    ∧ CommandPortReady (withWord up 0x030000000001) := by decide
theorem witness_IllegalWordAnswered_unassigned :
    (withWord up 0xFF0000000000).inp.events = [.label 0xFF0000000000] ∧ illegal? 0xFF0000000000 = some .unassignedOp
    ∧ isHostClass 0xFF0000000000 = false ∧ opOfCode? (opField 0xFF0000000000) = none
    ∧ CommandPortReady (withWord up 0xFF0000000000) := by decide
theorem witness_IllegalWordAnswered_busy :
    (withWord (writing .w0) 0x030000000001).cfg.ok = true ∧ illegal? 0x030000000001 = some .mustBeZero
    ∧ isHostClass 0x030000000001 = true ∧ ¬ CommandPortReady (withWord (writing .w0) 0x030000000001) := by decide
theorem witness_IllegalWordAnswered_noLabel :
    (withWord up 0x900000000148).cfg.ok = true ∧ illegal? 0x900000000148 = some .mustBeZero
    ∧ ¬ (isHostClass 0x900000000148 = true ∨ opOfCode? (opField 0x900000000148) = none) := by decide

theorem witness_TrackerOutOfRange_ready :
    (Instr.posinit 1).tracker? = some 1 ∧ up.cfg.ntrk ≤ (1 : BitVec 8).toNat ∧ (Instr.posinit 1).isHost = true
    ∧ CommandPortReady up := by decide
theorem witness_TrackerOutOfRange_busy :
    (Instr.getpos 1).tracker? = some 1 ∧ (writing .w0).cfg.ntrk ≤ (1 : BitVec 8).toNat ∧ (Instr.getpos 1).isHost = true
    ∧ ¬ CommandPortReady (writing .w0) := by decide
theorem witness_TrackerOutOfRange_noLabel :
    (Instr.irqovf 1).tracker? = some 1 ∧ up.cfg.ntrk ≤ (1 : BitVec 8).toNat ∧ (Instr.irqovf 1).isHost = false := by decide

theorem witness_RstPinResets : ({ lastByte with inp := { events := [.rst], wdata := [] } } : State).cfg.ok = true
    ∧ ({ lastByte with inp := { events := [.rst], wdata := [] } } : State).inp.events = [.rst] := by decide

theorem witness_LabelNotEnabled :
    enabled .ncstep up = false ∧ enabled (.init 1 .none false) up = false ∧ enabled (.posinit 1) up = false := by decide

theorem witness_HostCommandGuards_notReady : Instr.chkfrm.isHost = true ∧ ¬ CommandPortReady (writing .w0) := by decide
theorem witness_HostCommandGuards_uart : CommandPortReady State.reset ∧ State.reset.uartInit = false := by decide
theorem witness_HostCommandGuards_tracker :
    CommandPortReady State.reset ∧ State.reset.tracker? (0 : BitVec 8).toNat = some Tracker.reset ∧ Tracker.reset.inited = false := by
  decide

theorem witness_InitResult : CommandPortReady State.reset ∧ State.reset.uartInit = false := by decide
theorem witness_InitResult_second : CommandPortReady up ∧ up.uartInit = true := by decide

theorem witness_WriteAccepted :
    CommandPortReady (withPayload up [1, 2]) ∧ up.uartInit = true
    ∧ (2 : BitVec 32).toNat ≤ (withPayload up [1, 2]).inp.wdata.length := by decide
theorem witness_WriteAccepted_empty :
    CommandPortReady up ∧ up.uartInit = true ∧ (0 : BitVec 32).toNat ≤ up.inp.wdata.length := by decide

theorem witness_BooleanCommands : CommandPortReady up ∧ up.uartInit = true := by decide
theorem witness_SetrxcbResult : CommandPortReady State.reset := by decide
theorem witness_RxpopResult_empty : CommandPortReady up ∧ up.uartInit = true ∧ up.rx.rd = up.rx.wr := by decide

/-- A ring of one byte at its last index. -/
def ringEnd : State := { up with rx := { up.rx with ring := [(15, 0x41)], rd := 15 } }

theorem witness_RxpopResult_byte :
    CommandPortReady ringEnd ∧ ringEnd.uartInit = true ∧ ringEnd.rx.rd ≠ ringEnd.rx.wr ∧ ringEnd.rx.rd < ringEnd.cfg.ringCap
    ∧ ringEnd.readByte .ring ringEnd.rx.rd = some 0x41 := by decide

theorem witness_TrackerConfigCommands :
    CommandPortReady State.reset ∧ State.reset.tracker? (0 : BitVec 8).toNat = some Tracker.reset := by decide
theorem witness_InitallResult_empty :
    CommandPortReady (State.resetWith { Cfg.standard with ntrk := 0 }) ∧ (State.resetWith { Cfg.standard with ntrk := 0 }).reg.n = 0 := by
  decide
theorem witness_InitallResult_some : CommandPortReady State.reset ∧ State.reset.reg.n ≠ 0 := by decide
theorem witness_PositionCommandsAccepted :
    CommandPortReady (upAt 5 6) ∧ (upAt 5 6).tracker? (0 : BitVec 8).toNat = some (trk 5 6 .forward false) := by decide

theorem witness_ProducerPhases :
    NormalAt (writing .w0) .write .w0 ∧ NormalAt (writing .b0) .write .b0 ∧ NormalAt (writing .w1) .write .w1
    ∧ NormalAt (writing .w2) .write .w2 ∧ NormalAt (writing .w5) .write .w5 := by decide

/-- `WS` with Buffer 0 the active channel (40_transmit R143, its example). -/
def selecting1 : State := withDtx (writing .ws) true { en := true, src := some .b0, len := 4, rem := 2 }

/-- `WS` with Buffer 0 the active channel and Buffer 1 full. -/
def selectingNone : State := selecting1.setBuf .b1 { mem := [], fill := 4, busy := false }

theorem witness_SelectionPhase_b0 :
    NormalAt (writing .ws) .write .ws ∧ (writing .ws).tx.dtx.src ≠ some .b0
    ∧ ((writing .ws).buf .b0).fill < (writing .ws).cfg.txCap := by decide
theorem witness_SelectionPhase_b1 :
    NormalAt selecting1 .write .ws ∧ selecting1.tx.dtx.src ≠ some .b1 ∧ (selecting1.buf .b1).fill < selecting1.cfg.txCap
    ∧ ¬ (selecting1.tx.dtx.src ≠ some .b0 ∧ (selecting1.buf .b0).fill < selecting1.cfg.txCap) := by decide
theorem witness_SelectionPhase_held :
    NormalAt selectingNone .write .ws
    ∧ ∀ i : BufId, ¬ (selectingNone.tx.dtx.src ≠ some i ∧ (selectingNone.buf i).fill < selectingNone.cfg.txCap) :=
  ⟨by decide, fun i => by cases i <;> decide⟩

/-- `W3` with a chunk that fills the Buffer (40_transmit R146). -/
def copying : State := { writing .w3 with nc := { (writing .w3).nc with chunk := 4 } }

theorem witness_CopyPhase :
    NormalAt copying .write .w3 ∧ (copying.buf copying.nc.tgt).fill + copying.nc.chunk ≤ copying.cfg.txCap
    ∧ copying.nc.ip + copying.nc.chunk ≤ copying.nc.data.length := by decide

theorem witness_StartPhase_idle : NormalAt (writing .w4) .write .w4 ∧ (writing .w4).tx.inFlight = false := by decide
theorem witness_StartPhase_inFlight :
    NormalAt (withDtx (writing .w4) true up.tx.dtx) .write .w4 ∧ (withDtx (writing .w4) true up.tx.dtx).tx.inFlight = true := by decide
theorem witness_ByteWritePhases :
    NormalAt (writing .b1) .write .b1 ∧ NormalAt (writing .b2) .write .b2
    ∧ (writing .b2).nc.data[(writing .b2).nc.ip]? = some 0x41 := by decide

theorem witness_SetposPhases :
    (atNc (upAt 5 6) .setpos .s1).tracker? (atNc (upAt 5 6) .setpos .s1).nc.t = some (trk 5 6 .forward false)
    ∧ NormalAt (atNc (upAt 5 6) .setpos .s1) .setpos .s1 ∧ NormalAt (atNc (upAt 5 6) .setpos .s2) .setpos .s2 := by decide
theorem witness_GetposPhases :
    (atNc (upAt 5 6) .getpos .g1).tracker? (atNc (upAt 5 6) .getpos .g1).nc.t = some (trk 5 6 .forward false)
    ∧ NormalAt (atNc (upAt 5 6) .getpos .g1) .getpos .g1 ∧ NormalAt (atNc (upAt 5 6) .getpos .g2) .getpos .g2 := by decide

theorem witness_CompletionPhases :
    HandlerAt (atIc completed .txc .t1) .txc .t1 ∧ HandlerAt (atIc completed .txc .t2) .txc .t2
    ∧ (atIc completed .txc .t2).tx.dtx.src = some .b0 ∧ HandlerAt (atIc completed .txc .t3) .txc .t3
    ∧ HandlerAt (atIc completed .txc .t5) .txc .t5 := by decide
theorem witness_CompletionPhases_mismatch : HandlerAt (atIc up .txc .t2) .txc .t2 ∧ (atIc up .txc .t2).tx.dtx.src = none := by decide

/-- `T4` with the other Buffer queued and not busy (40_transmit R163, its example). -/
def handing : State := (atIc completed .txc .t4).setBuf .b1 { mem := [(0, 0x45)], fill := 1, busy := false }

theorem witness_HandoffPhase_start :
    HandlerAt handing .txc .t4 ∧ (handing.buf handing.ic.done.other).fill ≠ 0 ∧ (handing.buf handing.ic.done.other).busy = false := by
  decide
theorem witness_HandoffPhase_none :
    HandlerAt (atIc completed .txc .t4) .txc .t4
    ∧ ¬ (((atIc completed .txc .t4).buf (atIc completed .txc .t4).ic.done.other).fill ≠ 0
      ∧ ((atIc completed .txc .t4).buf (atIc completed .txc .t4).ic.done.other).busy = false) := by decide
theorem witness_DirectionPhase : HandlerAt (atIc up .txc .t6) .txc .t6 := by decide
theorem witness_DirectionPhase_turn :
    ∃ t, exec .icstep { atIc up .txc .t6 with tx := { up.tx with hd := true, de := .tx } } = .next t ∧ t.tx.de = .rx := ⟨_, rfl, rfl⟩
theorem witness_IdleHandlerPhases :
    HandlerAt (atIc up .idle .i1) .idle .i1 ∧ HandlerAt (atIc up .idle .i2) .idle .i2 ∧ HandlerAt (atIc up .idle .i3) .idle .i3
    ∧ HandlerAt (atIc up .idle .i5) .idle .i5 ∧ HandlerAt (atIc up .idle .i6) .idle .i6 := by decide

/-- `I4` with three bytes and a write cursor that wraps (41_receive R187, its example). -/
def copyingFrame : State :=
  { up with ic := { up.ic with h := .idle, pc := .i4, len := 3 }
            rx := { up.rx with scr := [(0, 0x41), (1, 0x42), (2, 0x43)], wr := 14 } }

theorem witness_CopyFramePhase :
    HandlerAt copyingFrame .idle .i4 ∧ copyingFrame.rx.wr < copyingFrame.cfg.ringCap
    ∧ copyingFrame.ic.len ≤ copyingFrame.cfg.scratchCap ∧ ∀ a, a < copyingFrame.ic.len → Written copyingFrame .scr a := by decide
theorem witness_CallbackPhases : HandlerAt (atIc up .idle .i7) .idle .i7 := by decide
theorem witness_ByteAndOverrunPhases :
    HandlerAt (atIc upByte .rxne .n1) .rxne .n1 ∧ (atIc upByte .rxne .n1).rx.wr < (atIc upByte .rxne .n1).cfg.ringCap
    ∧ HandlerAt (atIc up .ore .e1) .ore .e1 := by decide
theorem witness_OverflowPhases :
    (atIc (upAt 0x7FFF 0) .ovf .o1).tracker? (atIc (upAt 0x7FFF 0) .ovf .o1).ic.t = some (trk 0x7FFF 0 .forward false)
    ∧ HandlerAt (atIc (upAt 0x7FFF 0) .ovf .o1) .ovf .o1 ∧ HandlerAt (atIc (upAt 0x7FFF 0) .ovf .o2) .ovf .o2 := by decide

theorem witness_DtxbResult :
    lastByte.uartInit = true ∧ lastByte.cfg.txMode = .dma ∧ lastByte.fault = .none ∧ lastByte.tx.dtx.en = true
    ∧ 0 < lastByte.tx.dtx.rem ∧ lastByte.tx.dtx.src = some .b0 ∧ lastByte.tx.dtx.rem ≤ lastByte.tx.dtx.len
    ∧ lastByte.tx.dtx.len ≤ lastByte.cfg.txCap
    ∧ lastByte.readByte BufId.b0.space (lastByte.tx.dtx.len - lastByte.tx.dtx.rem) = some 0x41 := by decide

/-- A received byte waiting, with the given count left. -/
def received (n : Nat) : State := { up with rx := { up.rx with rdr := 0x41, rxne := true, drx := { en := true, rem := n } } }

theorem witness_DrxbResult_low :
    (received 1).uartInit = true ∧ (received 1).cfg.rxMode = .dma ∧ (received 1).fault = .none ∧ (received 1).rx.drx.en = true
    ∧ (received 1).rx.rxne = true ∧ 1 ≤ (received 1).rx.drx.rem ∧ (received 1).rx.drx.rem ≤ (received 1).cfg.scratchCap := by decide
theorem witness_DrxbResult_high :
    (received 8).uartInit = true ∧ (received 8).cfg.rxMode = .dma ∧ (received 8).fault = .none ∧ (received 8).rx.drx.en = true
    ∧ (received 8).rx.rxne = true ∧ 1 ≤ (received 8).rx.drx.rem ∧ (received 8).rx.drx.rem ≤ (received 8).cfg.scratchCap := by decide
theorem witness_CounterSteps :
    (upAt 65535 0).tracker? (0 : BitVec 8).toNat = some (trk 65535 0 .forward false)
    ∧ (trk 65535 0 .forward false).inited = true ∧ (upAt 65535 0).fault = .none := by decide
theorem witness_CounterSteps_notEnabled :
    up.tracker? (0 : BitVec 8).toNat = some Tracker.reset ∧ ¬ (Tracker.reset.inited = true ∧ up.fault = .none) := by decide

/-- Every interrupt flag set at once. -/
def allPending : State :=
  { completed with
      rx := { completed.rx with idle := true, rxne := true, ore := true }
      pos := [trk 0 0 .forward true] }

theorem witness_DispatchEnters :
    allPending.ic.h = .none ∧ allPending.fault = .none ∧ PriorityFree allPending ∧ allPending.uartInit = true
    ∧ allPending.cfg.txMode = .dma ∧ allPending.tx.tcif = true ∧ allPending.rx.idle = true ∧ allPending.rx.ore = true
    ∧ allPending.tracker? (0 : BitVec 8).toNat = some (trk 0 0 .forward true) := by decide
theorem witness_DispatchEnters_rxne :
    upByte.ic.h = .none ∧ upByte.fault = .none ∧ PriorityFree upByte ∧ upByte.uartInit = true ∧ upByte.cfg.rxMode = .byte
    ∧ ({ upByte with rx := { upByte.rx with rxne := true } } : State).rx.rxne = true := by decide

theorem witness_ContextExclusion_handler : (atIc up .txc .t1).ic.h ≠ .none ∧ Instr.isbusy.isHost = true := by decide
theorem witness_ContextExclusion_fault : ({ up with fault := .channelMismatch } : State).fault ≠ .none := by decide
theorem witness_InterruptContextFrame : ∃ t, exec .icstep (atIc completed .txc .t1) = .next t ∧ t.tx.tcif = false := ⟨_, rfl, rfl⟩
theorem witness_NormalContextFrame : ∃ t, exec .ncstep (writing .w1) = .next t ∧ t.tx.buf0.busy = true := ⟨_, rfl, rfl⟩
theorem witness_StoresOnlyWhereListed : ∃ t, exec .drxb (received 8) = .next t ∧ t.rx.scr = [(0, 0x41)] := ⟨_, rfl, rfl⟩
theorem witness_ParametersAndLogs : ∃ t, exec .dtxb lastByte = .next t ∧ t.obs.txStream = [0x41] := ⟨_, rfl, rfl⟩
theorem witness_ResetMeetsInvariant : Cfg.standard.ok = true := by decide

/-- `lastByte` with the word of `DTXB` at the port. -/
def draining : State := withWord lastByte 0x800000000000

theorem draining_memory : MemoryOk draining where
  canonical sp := by cases sp <;> decide
  inRange sp a h := by
    cases sp <;> simp [Written, draining, withWord, lastByte, withDtx, State.readByte, State.mem, State.setBuf, up,
      State.reset, State.resetWith, Tx.reset, TxBuf.reset, Rx.reset, Memory.read] at h
    subst h; decide

theorem draining_transmit : TransmitOk draining where
  cap := by decide
  fill i := by cases i <;> decide
  queued i := by cases i <;> decide
  remLen := by decide
  lenCap := by decide
  draining i a hi ha := by
    cases i
    · have h1 : a < 1 := ha
      have h0 : a = 0 := by omega
      subst h0; decide
    · exact absurd hi (by decide)
  source := by decide
  idle := by decide
  complete := by decide
  handlerInFlight := by decide
  handlerStopped := by decide
  handlerPhase := by decide
  ncPhase := by decide
  input := by decide
  inputLeft := by decide
  spare := by decide
  chunk := by decide
  busy i := by cases i <;> decide

theorem draining_receive : ReceiveOk draining where
  cap := by decide
  remLow := by decide
  remHigh := by decide
  stored := by decide
  length := by decide
  wr := by decide
  rd := by decide
  ring := .inr ⟨by decide, by decide⟩
  handlerPhase := by decide

theorem draining_steps : ∃ t, step draining = .next t ∧ t.tx.tcif = true := ⟨_, rfl, rfl⟩

theorem witness_MemoryFormKept : MemoryOk draining ∧ ∃ t, step draining = .next t ∧ t.tx.tcif = true :=
  ⟨draining_memory, draining_steps⟩
theorem witness_TransmitInvariantKept : TransmitOk draining ∧ ∃ t, step draining = .next t ∧ t.tx.tcif = true :=
  ⟨draining_transmit, draining_steps⟩
theorem witness_ReceiveInvariantKept : ReceiveOk draining ∧ ∃ t, step draining = .next t ∧ t.tx.tcif = true :=
  ⟨draining_receive, draining_steps⟩
theorem witness_BlockInvariantKept : BlockOk draining ∧ ∃ t, step draining = .next t ∧ t.tx.tcif = true :=
  ⟨⟨⟨by decide, by decide, by decide, by decide⟩, draining_memory, draining_transmit, draining_receive, by decide⟩, draining_steps⟩

theorem witness_BufferMutualExclusion :
    ∃ t, exec .icstep { handing with tx := { handing.tx with dtx := { handing.tx.dtx with en := false } } } = .next t
      ∧ t.tx.dtx.en = true := ⟨_, rfl, rfl⟩

/-- `WS` held with the engine stopped and still naming Buffer 0, and Buffer 1 full (70_reset_and_hazards R323). -/
def heldForGood : State := withDtx selectingNone false { en := false, src := some .b0, len := 4, rem := 0 }

theorem witness_StuckRunsStayStuck_held :
    HeldForGood heldForGood ∧ ∃ t, exec (.lineb 0x41) heldForGood = .next t ∧ t.rx.rxne = true :=
  ⟨⟨by decide, by decide, fun i => by cases i <;> decide, by decide, by decide, by decide⟩, _, rfl, rfl⟩

/-- A transfer of length 0 (70_reset_and_hazards R322). -/
def stalledForGood : State := withDtx up true { en := true, src := some .b0, len := 0, rem := 0 }

theorem witness_StuckRunsStayStuck_stalled :
    StalledForGood stalledForGood ∧ ∃ t, exec (.lineb 0x41) stalledForGood = .next t ∧ t.rx.rxne = true :=
  ⟨⟨by decide, by decide, by decide, by decide⟩, _, rfl, rfl⟩

/-- `W5` for Buffer 1 with Buffer 0's transfer just complete (70_reset_and_hazards R323). -/
def racing : State :=
  { completed with
      tx := { completed.tx with buf1 := { mem := [(0, 0x45)], fill := 1, busy := true } }
      nc := { up.nc with op := .write, pc := .w5, tgt := .b1 } }

theorem witness_StartToClearRace :
    NormalAt racing .write .w5 ∧ PriorityFree racing ∧ racing.uartInit = true ∧ racing.cfg.txMode = .dma ∧ racing.tx.hd = false
    ∧ racing.nc.tgt = .b1 ∧ (racing.buf .b1).busy = true ∧ racing.tx.tcif = true ∧ racing.tx.inFlight = true
    ∧ racing.tx.dtx.src = some BufId.b1.other := by decide

theorem witness_WriteThenDrain_b0 :
    CommandPortReady (withPayload up [1, 2, 3, 4]) ∧ up.uartInit = true ∧ up.cfg.txMode = .dma ∧ up.tx.inFlight = false
    ∧ up.tx.dtx.src ≠ some .b0 ∧ (up.buf .b0).fill = 0 ∧ 1 ≤ (4 : BitVec 32).toNat ∧ (4 : BitVec 32).toNat ≤ up.cfg.txCap
    ∧ (4 : BitVec 32).toNat ≤ (withPayload up [1, 2, 3, 4]).inp.wdata.length := by decide

/-- No transfer in flight and the source register still naming Buffer 0. -/
def after0 : State := withPayload (withDtx up false { en := false, src := some .b0, len := 1, rem := 0 }) [1]

theorem witness_WriteThenDrain_b1 :
    CommandPortReady after0 ∧ after0.uartInit = true ∧ after0.cfg.txMode = .dma ∧ after0.tx.inFlight = false
    ∧ after0.tx.dtx.src ≠ some .b1 ∧ (after0.buf .b1).fill = 0
    ∧ ¬ (after0.tx.dtx.src ≠ some .b0 ∧ (after0.buf .b0).fill < after0.cfg.txCap)
    ∧ 1 ≤ (1 : BitVec 32).toNat ∧ (1 : BitVec 32).toNat ≤ after0.cfg.txCap
    ∧ (1 : BitVec 32).toNat ≤ after0.inp.wdata.length := by decide
theorem witness_NonDmaWriteDelivers :
    CommandPortReady (withPayload upByte [1, 2]) ∧ upByte.uartInit = true ∧ upByte.cfg.txMode = .irq ∧ upByte.tx.txe = true
    ∧ (2 : BitVec 32).toNat ≤ (withPayload upByte [1, 2]).inp.wdata.length := by decide
theorem witness_ReceiveByteAccounting :
    up.ic.h = .none ∧ up.fault = .none ∧ PriorityFree up ∧ up.uartInit = true ∧ up.cfg.rxMode = .dma
    ∧ up.rx.drx = { en := true, rem := up.cfg.scratchCap } ∧ up.rx.rxne = false ∧ up.rx.wr < up.cfg.ringCap
    ∧ ([1, 2, 3, 4, 5, 6, 7] : List Byte).length < up.cfg.scratchCap
    ∧ ([1, 2, 3, 4, 5, 6, 7] : List Byte).length ≤ up.cfg.ringCap := by decide
theorem witness_PositionRoundTrip :
    CommandPortReady (upAt 5 6) ∧ (upAt 5 6).tracker? (0 : BitVec 8).toNat = some (trk 5 6 .forward false)
    ∧ (trk 5 6 .forward false).inited = true := by decide
theorem witness_PositionRoundTrip_reversed :
    CommandPortReady (withTracker up (trk 5 6 .reversed true))
    ∧ (withTracker up (trk 5 6 .reversed true)).tracker? (0 : BitVec 8).toNat = some (trk 5 6 .reversed true)
    ∧ (trk 5 6 .reversed true).inited = true := by decide
theorem witness_OverflowContinuity :
    up.ic.h = .none ∧ up.fault = .none ∧ PriorityFree up
    ∧ (upAt 65535 0).tracker? (0 : BitVec 8).toNat = some (trk 65535 0 .forward false)
    ∧ (trk 65535 0 .forward false).cnt.toNat = 65535
    ∧ (upAt 0 0).tracker? (0 : BitVec 8).toNat = some (trk 0 0 .forward false) ∧ (trk 0 0 .forward false).cnt.toNat = 0 := by decide
theorem witness_TornPositionRead :
    CommandPortReady (upAt 65535 32766) ∧ PriorityFree (upAt 65535 32766)
    ∧ (upAt 65535 32766).tracker? (0 : BitVec 8).toNat = some (trk 65535 32766 .forward false)
    ∧ (trk 65535 32766 .forward false).cnt.toNat = 65535 ∧ (trk 65535 32766 .forward false).ext.toInt < 32767 := by decide

end Sys2Proof.Tests
end

/-! ## Scope and step conventions (00_scope R17, R19 to R21): what a guard answers, which labels are enabled where, and what becomes of a
label that is not enabled. -/

namespace Sys2Proof.Machine

variable {s : State} {i : Instr}

/-! ### What the guards answer -/

@[simp] theorem needsUart_of {o : Out State} (h : s.uartInit = true) : needsUart s o = o := by simp [needsUart, h]

@[simp] theorem needsUart_of_not {o : Out State} (h : s.uartInit = false) :
    needsUart s o = .refused .commandBeforeInit := by simp [needsUart, h]

@[simp] theorem needsInited_of {p : Tracker} {o : Out State} (h : p.inited = true) : needsInited p o = o := by
  simp [needsInited, h]

@[simp] theorem needsInited_of_not {p : Tracker} {o : Out State} (h : p.inited = false) :
    needsInited p o = .refused .commandBeforeInit := by simp [needsInited, h]

theorem trackerCommand_of_not_ready {k : BitVec 8} {f : Tracker → Out State} (h : s.cmdReady = false) :
    trackerCommand s k f = .next s := by simp [trackerCommand, h]

theorem trackerCommand_of_none {k : BitVec 8} {f : Tracker → Out State} (hr : s.cmdReady = true)
    (hk : s.tracker? k.toNat = none) : trackerCommand s k f = answerIllegal s := by simp [trackerCommand, hr, hk]

theorem trackerCommand_of_some {k : BitVec 8} {f : Tracker → Out State} {p : Tracker} (hr : s.cmdReady = true)
    (hk : s.tracker? k.toNat = some p) : trackerCommand s k f = f p := by simp [trackerCommand, hr, hk]

theorem trackerEvent_of_none {k : BitVec 8} {f : Tracker → Out State} (hk : s.tracker? k.toNat = none) :
    trackerEvent s k f = .refused .notALabel := by simp [trackerEvent, hk]

theorem trackerEvent_of_some {k : BitVec 8} {f : Tracker → Out State} {p : Tracker} (hk : s.tracker? k.toNat = some p) :
    trackerEvent s k f = f p := by simp [trackerEvent, hk]

/-- The shape of every meaning that is guarded by its enabling condition alone (00_scope R19, entry 1). -/
theorem ite_notTaken {c : Bool} {o : Out State} (h : c = false) : (if c then o else notTaken s) = .next s := by
  simp [h, notTaken]

/-! ### Which labels are enabled where (00_scope R20, 60_exceptions R266, R276) -/

/-- The classes of labels (30_encoding R111, R118). -/
theorem label_cases (i : Instr) : i.isHost = true ∨ i.isDispatch = true ∨ i.isBoundary = true ∨
    i = .ncstep ∨ i = .icstep ∨ i = .eqdisp := by
  cases i <;> simp [Instr.isHost, Instr.isDispatch, Instr.isBoundary]

theorem serialOn_iff (s : State) : s.serialOn = true ↔ s.uartInit = true ∧ s.fault = .none := by simp [State.serialOn]

theorem dtxMoving_iff (s : State) : s.dtxMoving = true ↔ s.tx.dtx.en = true ∧ 0 < s.tx.dtx.rem := by
  simp [State.dtxMoving]

theorem dispatchReady_normal {src : IrqSource} (h : s.dispatchReady src = true) : s.ic.h = .none ∧ s.fault = .none := by
  simp only [State.dispatchReady, Bool.and_eq_true, decide_eq_true_eq] at h
  exact h.1

theorem cmdReady_of_enabled (hi : i.isHost = true) (h : enabled i s = true) : s.cmdReady = true := by
  cases i <;> simp_all [enabled, Instr.isHost]

theorem dispatchReady_of_enabled (hi : i.isDispatch = true) (h : enabled i s = true) :
    ∃ src, s.dispatchReady src = true := by
  cases i <;> simp only [enabled, Bool.and_eq_true, Instr.isDispatch, Bool.false_eq_true] at h hi
  all_goals exact ⟨_, h.1⟩

theorem noFault_of_enabled_boundary (hi : i.isBoundary = true) (h : enabled i s = true) : s.fault = .none := by
  cases i <;> simp_all [enabled, Instr.isBoundary, State.dtxbReady, State.ltcReady, State.ltxeReady, State.drxbReady,
    State.serialOn]

/-- A label that normal context or a dispatch takes is enabled only while no handler is active (00_scope R20,
60_exceptions R275). -/
theorem noHandler_of_enabled (hi : i.isHost = true ∨ i = .ncstep ∨ i = .eqdisp ∨ i.isDispatch = true)
    (h : enabled i s = true) : s.ic.h = .none := by
  rcases hi with hi | rfl | rfl | hi
  · exact ((cmdReady_iff s).mp (cmdReady_of_enabled hi h)).2.1
  · simp_all [enabled, State.ncstepReady]
  · simp only [enabled, State.eqdispReady, Bool.and_eq_true] at h
    exact ((cmdReady_iff s).mp h.2).2.1
  · obtain ⟨src, hsrc⟩ := dispatchReady_of_enabled hi h
    exact (dispatchReady_normal hsrc).1

/-- After `ChannelMismatch` no label is enabled (60_exceptions R266). -/
theorem noFault_of_enabled (h : enabled i s = true) : s.fault = .none := by
  rcases label_cases i with hi | hi | hi | rfl | rfl | rfl
  · exact ((cmdReady_iff s).mp (cmdReady_of_enabled hi h)).2.2
  · obtain ⟨src, hsrc⟩ := dispatchReady_of_enabled hi h
    exact (dispatchReady_normal hsrc).2
  · exact noFault_of_enabled_boundary hi h
  · simp_all [enabled, State.ncstepReady]
  · simp_all [enabled, State.icstepReady]
  · simp only [enabled, State.eqdispReady, Bool.and_eq_true] at h
    exact ((cmdReady_iff s).mp h.2).2.2

/-! ### A label that is not enabled (00_scope R19) -/

/-- A host command while `cmd_ready = 0` (30_encoding R111). -/
theorem exec_host_of_not_ready (hi : i.isHost = true) (h : s.cmdReady = false) : exec i s = .next s := by
  cases i with
  | init | write | isbusy | chkfrm | setrxcb | rxpop | initall => exact whenReady_of_not h
  | posinit | setdir | setpos | getpos => exact trackerCommand_of_not_ready h
  | _ => cases hi

/-- A boundary or dispatch label naming no tracker (30_encoding R120). -/
theorem exec_of_no_tracker {t : BitVec 8} (hi : i.isHost = false) (ht : i.tracker? = some t)
    (hn : s.tracker? t.toNat = none) : exec i s = .refused .notALabel := by
  cases i with
  | cntup | cntdn | irqovf => cases ht; exact trackerEvent_of_none hn
  | posinit | setdir | setpos | getpos => cases hi
  | _ => cases ht

/-- A label that is no host command and names no missing tracker. -/
theorem exec_of_not_enabled (hi : i.isHost = false)
    (ht : ∀ t, i.tracker? = some t → (s.tracker? t.toNat).isSome = true) (h : enabled i s = false) :
    exec i s = .next s := by
  cases i with
  | ncstep | icstep | eqdisp | ltc | ltxe | lineb | drxb | lidle | irqtxc | irqidle | irqrxne | irqore =>
    exact ite_notTaken h
  | dtxb =>
    cases hsrc : s.tx.dtx.src with
    | none => simp only [exec, execDtxb, hsrc, notTaken]
    | some j =>
      have hr : s.dtxbReady = false := by simpa [enabled, hsrc] using h
      simp only [exec, execDtxb, hsrc]
      exact ite_notTaken hr
  | cntup t | cntdn t =>
    obtain ⟨p, hp⟩ := Option.isSome_iff_exists.mp (ht t rfl)
    refine (trackerEvent_of_some hp).trans (ite_notTaken ?_)
    rw [Bool.and_comm]
    simpa only [enabled, hp, Option.any_some] using h
  | irqovf t =>
    obtain ⟨p, hp⟩ := Option.isSome_iff_exists.mp (ht t rfl)
    refine (trackerEvent_of_some hp).trans (ite_notTaken ?_)
    rw [Bool.and_assoc]
    simpa only [enabled, hp, Option.any_some] using h
  | _ => cases hi

/-- The outcomes of a label that is not enabled (00_scope R21 (b), (d); entries 1, 10, 11). -/
def NotEnabledOutcome (i : Instr) (s : State) : Prop :=
  exec i s = .next s
  ∨ (∃ r, exec i s = .refused r ∧ (r = .commandBeforeInit ∨ r = .secondInit ∨ r = .notALabel))
  ∨ (i.isHost = true ∧ (∃ t, i.tracker? = some t ∧ s.tracker? t.toNat = none) ∧ exec i s = .next (respond s 0xFF 0))

theorem NotEnabledOutcome.beforeInit (h : exec i s = .refused .commandBeforeInit) : NotEnabledOutcome i s :=
  .inr (.inl ⟨_, h, .inl rfl⟩)

/-- A serial command whose only guards are `cmd_ready` and the initialisation (44_init_config R257). -/
theorem NotEnabledOutcome.serial {o : Out State} (hr : s.cmdReady = true) (h : (s.cmdReady && s.uartInit) = false)
    (he : exec i s = whenReady s (needsUart s o)) : NotEnabledOutcome i s :=
  .beforeInit (by rw [he, whenReady_of hr, needsUart_of_not (by simpa [hr] using h)])

/-- A position command that is ready names no tracker, or its tracker keeps it from being enabled. -/
theorem NotEnabledOutcome.position {t : BitVec 8} {f : Tracker → Out State} (hi : i.isHost = true)
    (ht : i.tracker? = some t) (hr : s.cmdReady = true) (he : exec i s = trackerCommand s t f)
    (hp : ∀ p, s.tracker? t.toNat = some p → f p = .refused .commandBeforeInit) : NotEnabledOutcome i s := by
  cases hk : s.tracker? t.toNat with
  | none => exact .inr (.inr ⟨hi, ⟨t, ht, hk⟩, he.trans (trackerCommand_of_none hr hk)⟩)
  | some p => exact .beforeInit (by rw [he, trackerCommand_of_some hr hk, hp p hk])

/-- A host command that is ready and still not enabled. -/
theorem notEnabledOutcome_of_ready (hi : i.isHost = true) (hr : s.cmdReady = true) (h : enabled i s = false) :
    NotEnabledOutcome i s := by
  cases i with
  | init baud parity hd =>
    have hu : s.uartInit = true := by simpa [enabled, hr] using h
    exact .inr (.inl ⟨.secondInit, (whenReady_of hr).trans (if_pos hu), .inr (.inl rfl)⟩)
  | write n =>
    cases hu : s.uartInit with
    | false => exact .beforeInit ((whenReady_of hr).trans (needsUart_of_not hu))
    | true =>
      have hp : s.payloadThere n = false := by simpa [enabled, hr, hu] using h
      exact .inl (((whenReady_of hr).trans (needsUart_of hu)).trans (ite_notTaken hp))
  | isbusy | chkfrm | rxpop => exact .serial hr h rfl
  | setrxcb | initall => exact absurd (hr.symm.trans h) (by decide)
  | posinit t | setdir t d =>
    refine .position rfl rfl hr rfl fun p hp => ?_
    simp [enabled, hr, hp] at h
  | setpos t v | getpos t =>
    refine .position rfl rfl hr rfl fun p hp => needsInited_of_not ?_
    simpa [enabled, hr, hp] using h
  | _ => cases hi

theorem notEnabledOutcome (h : enabled i s = false) : NotEnabledOutcome i s := by
  cases hi : i.isHost with
  | true =>
    cases hr : s.cmdReady with
    | false => exact .inl (exec_host_of_not_ready hi hr)
    | true => exact notEnabledOutcome_of_ready hi hr h
  | false =>
    by_cases ht : ∀ t, i.tracker? = some t → (s.tracker? t.toNat).isSome = true
    · exact .inl (exec_of_not_enabled hi ht h)
    · push Not at ht
      obtain ⟨t, ht, hn⟩ := ht
      exact .inr (.inl ⟨_, exec_of_no_tracker hi ht (by simpa using hn), .inr (.inr rfl)⟩)

/-- Settles O12: host commands by what their guards answer, every other label by its enabling condition. -/
theorem labelNotEnabled : Obligations.LabelNotEnabled := fun _ _ h => notEnabledOutcome h

/-- Settles O42: a host command is then not ready, and no other label of the statement is enabled. -/
theorem contextExclusion : Obligations.ContextExclusion := by
  intro i s ht hx
  have he : enabled i s = false := by
    refine Bool.eq_false_iff.mpr fun h => ?_
    rcases hx with hf | ⟨hh, hi⟩
    · exact hf (noFault_of_enabled h)
    · exact hh (noHandler_of_enabled hi h)
  cases hi : i.isHost with
  | false => exact exec_of_not_enabled hi ht he
  | true =>
    refine exec_host_of_not_ready hi (Bool.eq_false_iff.mpr fun hr => ?_)
    obtain ⟨-, hh, hf⟩ := (cmdReady_iff s).mp hr
    rcases hx with hf' | ⟨hh', -⟩
    · exact hf' hf
    · exact hh' hh

/-! ### One step -/

/-- A label word at the port (00_scope R19, entry 2). -/
theorem step_label {w : LabelWord} {es : List PortEvent} (hc : s.cfg.ok = true) (he : s.inp.events = .label w :: es)
    (hd : decode w = .ok i) : step s = exec i { s with inp := { s.inp with events := es } } := by
  simp only [step, (configRefusal_none_iff _).mpr hc, fetchEvent, he, hd]

/-- Nothing at the port (70_reset_and_hazards R301). -/
theorem step_nothing (hc : s.cfg.ok = true) (he : s.inp.events = []) : step s = .next s := by
  simp only [step, (configRefusal_none_iff _).mpr hc, fetchEvent, he]

/-- Settles O6. -/
theorem stepRunsDecodedLabel : Obligations.StepRunsDecodedLabel :=
  ⟨fun _ _ _ _ hc he hd => step_label hc he hd, fun _ hc he => step_nothing hc he⟩

/-! ### The response word -/

@[simp] theorem respWord_status (status : BitVec 8) (value : BitVec 32) :
    (respWord status value).extractLsb' 32 8 = status := by
  exact BitVec.extractLsb'_append_eq_left

@[simp] theorem respWord_value (status : BitVec 8) (value : BitVec 32) :
    (respWord status value).extractLsb' 0 32 = value := by
  exact BitVec.extractLsb'_append_eq_right

/-- Settles O9: the word is `respWord status value`. -/
theorem respondDelivers : Obligations.RespondDelivers := fun _ status value =>
  ⟨respWord status value, rfl, respWord_status status value, respWord_value status value⟩

/-! ### The serial line's events (40_transmit R153, R154; 41_receive R180, R181) -/

/-- A guarded effect is one next state, the guard read as a proposition. -/
theorem ite_next {c : Bool} {P : Prop} [Decidable P] (hc : c = true ↔ P) (t : State) :
    (if c then Host.Outcome.next t else notTaken s : Out State) = .next (if P then t else s) := by
  by_cases hp : P
  · rw [if_pos (hc.mpr hp), if_pos hp]
  · rw [if_neg (mt hc.mp hp), if_neg hp, notTaken]

theorem ltcReady_iff (s : State) : s.ltcReady = true ↔ s.uartInit = true ∧ s.fault = .none ∧ s.tx.tc = false ∧
    s.tx.txe = true ∧ ¬ (s.tx.dtx.en = true ∧ 0 < s.tx.dtx.rem) := by
  simp only [State.ltcReady, Bool.and_eq_true, Bool.not_eq_true', serialOn_iff, ← dtxMoving_iff, Bool.not_eq_true,
    and_assoc]

theorem ltxeReady_iff (s : State) : s.ltxeReady = true ↔
    s.uartInit = true ∧ s.cfg.txMode = .irq ∧ s.fault = .none ∧ s.tx.txe = false := by
  simp only [State.ltxeReady, Bool.and_eq_true, Bool.not_eq_true', serialOn_iff, decide_eq_true_eq]
  tauto

/-- Settles O38: each label is a guarded effect whose guard is its rule's condition. -/
theorem serialLineEvents : Obligations.SerialLineEvents := by
  intro s b
  refine ⟨ite_next (ltcReady_iff s) _, ite_next (ltxeReady_iff s) _, ?_, ite_next (serialOn_iff s) _⟩
  cases hr : s.rx.rxne with
  | true | false =>
    simp only [exec, execLineb, hr, if_true, Bool.false_eq_true, if_false]
    exact ite_next (serialOn_iff s) _

end Sys2Proof.Machine

/-! ## What an outcome ensures: one rule for each guard and for the step, so that a proof about a label follows the shape of its
meaning. -/

namespace Sys2Proof.Machine

variable {s : State} {F G : Prop} {P Q : State → Prop} {o : Out State}

/-- The next state, if there is one, has `P`; a fault occurs only if `F`; a refusal is allowed. -/
def Ensures (F : Prop) (P : State → Prop) : Out State → Prop
  | .next t => P t
  | .fault _ => F
  | .refused _ => True

theorem ensures_iff : Ensures F P o ↔ (∀ t, o = .next t → P t) ∧ (∀ f, o = .fault f → F) := by
  cases o <;> simp [Ensures]

theorem Ensures.next (h : Ensures F P o) {t : State} (ho : o = .next t) : P t := (ensures_iff.mp h).1 t ho

theorem Ensures.mono (h : Ensures F P o) (hF : F → G) (hP : ∀ t, P t → Q t) : Ensures G Q o := by
  cases o with
  | next t => exact hP t h
  | fault f => exact hF h
  | refused r => trivial

theorem Ensures.and (h : Ensures F P o) (h' : Ensures G Q o) : Ensures (F ∧ G) (fun t => P t ∧ Q t) o := by
  cases o with
  | next t => exact ⟨h, h'⟩
  | fault f => exact ⟨h, h'⟩
  | refused r => trivial

/-! ### The guards -/

theorem Ensures.ite {c : Prop} [Decidable c] {o' : Out State} (h : c → Ensures F P o) (h' : ¬ c → Ensures F P o') :
    Ensures F P (if c then o else o') := by
  by_cases hc : c
  · rw [if_pos hc]; exact h hc
  · rw [if_neg hc]; exact h' hc

/-- A label whose enabling condition fails leaves the state (00_scope R19). -/
theorem Ensures.guarded {c : Bool} (hs : P s) (h : c = true → Ensures F P o) :
    Ensures F P (if c then o else notTaken s) := .ite h fun _ => hs

theorem Ensures.whenReady (hs : P s) (h : s.cmdReady = true → Ensures F P o) : Ensures F P (whenReady s o) :=
  .guarded hs h

theorem Ensures.needsUart (h : Ensures F P o) : Ensures F P (needsUart s o) := .ite (fun _ => h) fun _ => trivial

theorem Ensures.needsInited {p : Tracker} (h : Ensures F P o) : Ensures F P (needsInited p o) :=
  .ite (fun _ => h) fun _ => trivial

/-- A position command: a word that names no tracker is answered `ILLEGAL` (30_encoding R120). -/
theorem Ensures.trackerCommand {k : BitVec 8} {f : Tracker → Out State} (hs : P s)
    (hi : s.cmdReady = true → P (respond s statusIllegal 0)) (hf : s.cmdReady = true → ∀ p, Ensures F P (f p)) :
    Ensures F P (trackerCommand s k f) := by
  refine .whenReady hs fun hr => ?_
  cases s.tracker? k.toNat with
  | none => exact hi hr
  | some p => exact hf hr p

theorem Ensures.trackerEvent {k : BitVec 8} {f : Tracker → Out State} (hf : ∀ p, Ensures F P (f p)) :
    Ensures F P (trackerEvent s k f) := by
  unfold Machine.trackerEvent
  cases s.tracker? k.toNat with
  | none => trivial
  | some p => exact hf p

/-! ### One step -/

/-- What every label, the answer to an illegal word, the pin `rst` and the taking of an event keep, a step keeps. -/
theorem ensures_step (hinp : ∀ (s : State) (p : Inputs), P s → P { s with inp := p })
    (hreset : ∀ c : Cfg, c.ok = true → P (State.resetWith c))
    (hill : ∀ s : State, s.cmdReady = true → P s → P (respond s statusIllegal 0))
    (hexec : ∀ (i : Instr) (s : State), P s → Ensures F P (exec i s)) (hs : P s) : Ensures F P (step s) := by
  unfold step
  split
  · trivial
  · rename_i hc
    unfold fetchEvent
    cases s.inp.events with
    | nil => exact hs
    | cons e es =>
      have hs' := hinp s { s.inp with events := es } hs
      cases e with
      | rst => exact hinp _ _ (hreset _ ((configRefusal_none_iff _).mp hc))
      | label w =>
        change Ensures F P (match decode w with | .ok i => _ | .error x => _)
        cases decode w with
        | ok i => exact hexec i _ hs'
        | error x => exact .ite (fun _ => .whenReady hs' fun hr => hill _ hr hs') fun _ => trivial

end Sys2Proof.Machine

/-! ## The enabling of the two sequencers, and the parts of the state that the shared operations leave (00_scope R17, 30_encoding R125,
R126). -/

namespace Sys2Proof.Machine

variable {s t : State}

theorem ncstepReady_iff (s : State) : s.ncstepReady = true ↔
    s.ic.h = .none ∧ s.fault = .none ∧ s.nc.op.hasPhase s.nc.pc = true ∧ s.ncHeld = false := by
  simp [State.ncstepReady, and_assoc]

theorem icstepReady_iff (s : State) : s.icstepReady = true ↔
    s.fault = .none ∧ s.ic.h.hasPhase s.ic.pc = true ∧ s.icHeld = false := by
  simp [State.icstepReady, and_assoc]

theorem hasPhase_of_ncstepReady (h : s.ncstepReady = true) : s.nc.op.hasPhase s.nc.pc = true :=
  have ⟨_, _, hp, _⟩ := (ncstepReady_iff s).mp h
  hp

theorem hasPhase_of_icstepReady (h : s.icstepReady = true) : s.ic.h.hasPhase s.ic.pc = true :=
  have ⟨_, hp, _⟩ := (icstepReady_iff s).mp h
  hp

/-- `DTXB` moves a byte of a running transfer (40_transmit R152). -/
theorem moving_of_dtxbReady (h : s.dtxbReady = true) : s.tx.dtx.en = true ∧ 0 < s.tx.dtx.rem := by
  simp only [State.dtxbReady, Bool.and_eq_true] at h
  exact (dtxMoving_iff s).mp h.2

/-- A host command is accepted while no other is in progress (30_encoding R116). -/
theorem op_none_of_cmdReady (h : s.cmdReady = true) : s.nc.op = .none := ((cmdReady_iff s).mp h).1

/-- The handler that has the phase (30_encoding R126). -/
def IcPhase.handler : IcPhase → Handler
  | .t1 | .t2 | .t3 | .t4 | .t5 | .t6 => .txc
  | .i1 | .i2 | .i3 | .i4 | .i5 | .i6 | .i7 => .idle
  | .n1 => .rxne
  | .e1 => .ore
  | .o1 | .o2 => .ovf

theorem hasPhase_iff (h : Handler) (p : IcPhase) : h.hasPhase p = true ↔ h = p.handler := by
  cases p <;> cases h <;> decide

theorem markInited_eq (s : State) (k : Nat) : ∃ l, markInited s k = { s with pos := l } ∧ l.length = s.pos.length := by
  unfold markInited
  split
  · exact ⟨_, rfl, List.length_set⟩
  · exact ⟨s.pos, rfl, rfl⟩

theorem foldl_markInited_eq (ks : List Nat) :
    ∀ s : State, ∃ l, ks.foldl markInited s = { s with pos := l } ∧ l.length = s.pos.length := by
  induction ks with
  | nil => exact fun s => ⟨s.pos, rfl, rfl⟩
  | cons k ks ih =>
    intro s
    obtain ⟨l, hl, hn⟩ := markInited_eq s k
    obtain ⟨l', hl', hn'⟩ := ih (markInited s k)
    rw [List.foldl_cons, hl', hl]
    rw [hl] at hn'
    exact ⟨l', rfl, hn'.trans hn⟩

/-- Bytes stored in a transmit Buffer leave the receive side. -/
theorem memWriteBytes_buf_rx {i : BufId} {bs : List Byte} :
    ∀ {s t : State} {a : Nat}, memWriteBytes s i.space a bs = .ok t → t.rx = s.rx := by
  induction bs with
  | nil => intro s t a h; cases h; rfl
  | cons b bs ih =>
    intro s t a h
    simp only [memWriteBytes] at h
    split at h
    · rename_i s1 h1
      obtain ⟨-, rfl⟩ := memWrite_ok h1
      rw [ih h]
      cases i <;> rfl
    · cases h

/-- The bytes of a Buffer's space are a view of `tx` alone. -/
theorem written_buf_congr (htx : t.tx = s.tx) (i : BufId) (a : Nat) : Written t i.space a ↔ Written s i.space a := by
  cases i <;> simp [Written, State.readByte, State.mem, BufId.space, htx]

/-- The bytes of the scratch buffer and of the ring are a view of `rx` alone. -/
theorem written_rx_congr (hrx : t.rx = s.rx) (a : Nat) :
    (Written t .scr a ↔ Written s .scr a) ∧ (Written t .ring a ↔ Written s .ring a) := by
  simp [Written, State.readByte, State.mem, hrx]

/-- A store writes one byte more. -/
theorem written_setMem_write (s : State) (sp sq : Space) (a x : Nat) (b : Byte) :
    Written (s.setMem sp ((s.mem sp).write a b)) sq x ↔ (sq = sp ∧ x = a) ∨ Written s sq x := by
  rw [Written, readByte_setMem_write]
  split
  · rename_i h; exact iff_of_true rfl (.inl h)
  · rename_i h; exact (or_iff_right h).symm

theorem written_ringPush {b : Byte} (h : ringPush s b = .ok t) (sq : Space) (x : Nat) :
    Written t sq x ↔ (sq = .ring ∧ x = s.rx.wr) ∨ Written s sq x := by
  rw [Written, readByte_ringPush h]
  split
  · rename_i h; exact iff_of_true rfl (.inl h)
  · rename_i h; exact (or_iff_right h).symm

theorem written_memWriteBytes {sp : Space} {bs : List Byte} {a : Nat} (h : memWriteBytes s sp a bs = .ok t) (sq : Space)
    (x : Nat) : Written t sq x ↔ (sq = sp ∧ a ≤ x ∧ x < a + bs.length) ∨ Written s sq x := by
  obtain ⟨-, -, -, hread, -⟩ := memWriteBytes_ok h
  rw [Written, hread]
  split
  · rename_i h
    refine iff_of_true ?_ (.inl h)
    rw [List.getElem?_eq_getElem (by omega)]
    rfl
  · rename_i h; exact (or_iff_right h).symm

end Sys2Proof.Machine

/-! ## What every label keeps: the parameters, the registry, the form of the memories; and that from the whole invariant it neither
faults nor raises `ChannelMismatch` (20_memory R84, 93 U10, 60_exceptions R266). -/

namespace Sys2Proof.Machine

variable {s t : State} {i : Instr}

/-! ### The form of the memories -/

theorem MemoryOk.congr (h : MemoryOk s) (hc : t.cfg = s.cfg) (hm : ∀ sp, t.mem sp = s.mem sp) : MemoryOk t where
  canonical sp := by rw [hm]; exact h.canonical sp
  inRange sp a hw := by
    rw [hc]
    exact h.inRange sp a (by simpa only [Written, State.readByte, hm] using hw)

theorem MemoryOk.memWrite {sp : Space} {a : Nat} {b : Byte} (h : MemoryOk s) (hw : memWrite s sp a b = .ok t) :
    MemoryOk t where
  canonical sq := memWrite_wf hw sq (h.canonical sq)
  inRange sq x hx := by
    obtain ⟨ha, rfl⟩ := memWrite_ok hw
    rw [setMem_cfg]
    rcases (written_setMem_write s sp sq a x b).mp hx with ⟨rfl, rfl⟩ | hx
    · exact ha
    · exact h.inRange sq x hx

theorem MemoryOk.memWriteBytes {sp : Space} {bs : List Byte} :
    ∀ {s t : State} {a : Nat}, MemoryOk s → memWriteBytes s sp a bs = .ok t → MemoryOk t := by
  induction bs with
  | nil => intro s t a h hw; cases hw; exact h
  | cons b bs ih =>
    intro s t a h hw
    simp only [Machine.memWriteBytes] at hw
    split at hw
    · rename_i s1 h1
      exact ih (h.memWrite h1) hw
    · cases hw

theorem MemoryOk.ringPush {b : Byte} (h : MemoryOk s) (hp : ringPush s b = .ok t) : MemoryOk t := by
  obtain ⟨hr, rfl⟩ := ringPush_ok hp
  exact (h.memWrite (memWrite_of (sp := .ring) b hr)).congr rfl fun sp => by cases sp <;> rfl

theorem MemoryOk.copyFrame {n : Nat} :
    ∀ {s t : State} {k : Nat}, MemoryOk s → copyFrame s k n = .ok t → MemoryOk t := by
  induction n with
  | zero => intro s t k h hc; cases hc; exact h
  | succ n ih =>
    intro s t k h hc
    simp only [Machine.copyFrame] at hc
    split at hc
    · split at hc
      · rename_i s1 h1
        exact ih (h.ringPush h1) hc
      · cases hc
    · cases hc

/-! ### The frame of a label -/

/-- What the next state `t` keeps of `s` whatever the label is. -/
structure Frame (s t : State) : Prop where
  cfg : t.cfg = s.cfg
  reg : t.reg = s.reg
  trackers : t.pos.length = s.pos.length
  memory : MemoryOk s → MemoryOk t
  noFault : BlockOk s → t.fault = .none

/-- A label that stores nothing and leaves the fault record. -/
theorem Frame.of (hc : t.cfg = s.cfg) (hr : t.reg = s.reg) (hp : t.pos.length = s.pos.length)
    (hm : ∀ sp, t.mem sp = s.mem sp) (hf : t.fault = s.fault) : Frame s t :=
  ⟨hc, hr, hp, fun h => h.congr hc hm, fun h => hf.trans h.noFault⟩

theorem Frame.refl (s : State) : Frame s s := .of rfl rfl rfl (fun _ => rfl) rfl

theorem Frame.respond (h : Frame s t) (st : BitVec 8) (v : BitVec 32) : Frame s (respond t st v) :=
  ⟨h.cfg, h.reg, h.trackers, fun hm => (h.memory hm).congr rfl fun _ => rfl, h.noFault⟩

theorem Frame.setBuf (s : State) (i : BufId) (n : Nat) (b : Bool) :
    Frame s (s.setBuf i { s.buf i with fill := n, busy := b }) :=
  .of (by simp) (by simp) (by simp) (by simp) (by simp)

theorem Frame.setNcPc (h : Frame s t) (p : NcPhase) : Frame s (setNcPc t p) :=
  ⟨h.cfg, h.reg, h.trackers, fun hm => (h.memory hm).congr rfl fun _ => rfl, h.noFault⟩

theorem Frame.setIcPc (h : Frame s t) (p : IcPhase) : Frame s (setIcPc t p) :=
  ⟨h.cfg, h.reg, h.trackers, fun hm => (h.memory hm).congr rfl fun _ => rfl, h.noFault⟩

/-- Only `pos` is written, and no tracker is added or removed. -/
theorem Frame.setTracker (s : State) (k : Nat) (p : Tracker) : Frame s (s.setTracker k p) :=
  .of rfl rfl List.length_set (fun _ => rfl) rfl

theorem Frame.enterHandler (s : State) (h : Handler) (p : IcPhase) : Frame s (enterHandler s h p) :=
  .of rfl rfl rfl (fun _ => rfl) rfl

/-- What a label ensures: its frame, and no fault from a state of the whole invariant. -/
abbrev Framed (s : State) (o : Out State) : Prop := Ensures (¬ BlockOk s) (Frame s) o

/-! ### The phases that can fault -/

/-- The chunk of phase `W3` is there in the payload and fits (40_transmit R145, R146). -/
theorem TransmitOk.chunk_fits (h : TransmitOk s) (hop : s.nc.op = .write) (hpc : s.nc.pc = .w3) :
    s.nc.chunkBytes.length = s.nc.chunk ∧
    (s.buf s.nc.tgt).fill + s.nc.chunkBytes.length ≤ capacityOf s.cfg s.nc.tgt.space := by
  obtain ⟨-, hrem, hcap⟩ := h.chunk hop hpc
  have hin := h.input hop
  have hl : s.nc.chunkBytes.length = s.nc.chunk := by
    simp only [Nc.chunkBytes, List.length_take, List.length_drop]; omega
  have hsp : capacityOf s.cfg s.nc.tgt.space = s.cfg.txCap := by cases s.nc.tgt <;> rfl
  exact ⟨hl, by rw [hl, hsp]; exact hcap⟩

theorem framed_phaseW3 (hop : s.nc.op = .write) (hpc : s.nc.pc = .w3) : Framed s (phaseW3 s) := by
  refine .ite (fun _ => ?_) fun hl hb => hl (hb.transmit.chunk_fits hop hpc).1
  cases hw : memWriteBytes s s.nc.tgt.space (s.buf s.nc.tgt).fill s.nc.chunkBytes with
  | error f =>
    intro hb
    obtain ⟨t, ht⟩ := memWriteBytes_of (hb.transmit.chunk_fits hop hpc).2
    cases hw.symm.trans ht
  | ok s1 =>
    obtain ⟨hs, -⟩ := memWriteBytes_ok hw
    refine ⟨?_, ?_, ?_, fun hm => (hm.memWriteBytes hw).congr ?_ ?_, fun hb => ?_⟩
    · simp [hs.cfg]
    · simp [hs.reg]
    · simp [hs.pos]
    · simp
    · exact fun sp => mem_setBuf_keep s1 s.nc.tgt _ _ sp
    · simp [hs.fault, hb.noFault]

theorem framed_phaseB2 (hop : s.nc.op = .write) (hpc : s.nc.pc = .b2) : Framed s (phaseB2 s) := by
  unfold phaseB2
  cases hd : s.nc.data[s.nc.ip]? with
  | some b => exact .of rfl rfl rfl (fun _ => rfl) rfl
  | none =>
    intro hb
    have hlen := List.getElem?_eq_none_iff.mp hd
    have hin := hb.transmit.input hop
    have hleft := hb.transmit.inputLeft hop (by simp [hpc])
    omega

/-- The engine reads a byte that was written (40_transmit R152; 93 U10). -/
theorem framed_execDtxb : Framed s (execDtxb s) := by
  unfold execDtxb
  cases hsrc : s.tx.dtx.src with
  | none => exact .refl s
  | some i =>
    refine .guarded (.refl s) fun hr => ?_
    cases hm : memRead s i.space (s.tx.dtx.len - s.tx.dtx.rem) with
    | ok b => exact .of rfl rfl rfl (fun _ => rfl) rfl
    | error f =>
      intro hb
      obtain ⟨-, hmove⟩ := moving_of_dtxbReady hr
      have hrl := hb.transmit.remLen
      have hwr := hb.transmit.draining i (s.tx.dtx.len - s.tx.dtx.rem) hsrc (by omega)
      obtain ⟨b, hread⟩ := Option.isSome_iff_exists.mp hwr
      cases hm.symm.trans (memRead_of (hb.memory.inRange _ _ hwr) hread)

theorem framed_execDrxb : Framed s (execDrxb s) := by
  refine .guarded (.refl s) fun _ => ?_
  cases hw : memWrite s .scr (s.cfg.scratchCap - s.rx.drx.rem) s.rx.rdr with
  | error f =>
    intro hb
    have hlow := hb.receive.remLow
    have hcap := hb.receive.cap
    cases hw.symm.trans (memWrite_of (sp := .scr) s.rx.rdr (show _ < s.cfg.scratchCap by omega))
  | ok s1 =>
    refine ⟨?_, ?_, ?_, fun hm => (hm.memWrite hw).congr rfl fun _ => rfl, fun hb => ?_⟩
    all_goals obtain ⟨-, rfl⟩ := memWrite_ok hw
    · rfl
    · rfl
    · rfl
    · exact hb.noFault

theorem framed_phaseI4 (hh : s.ic.h = .idle) (hpc : s.ic.pc = .i4) : Framed s (phaseI4 s) := by
  unfold phaseI4
  cases hc : copyFrame s 0 s.ic.len with
  | error f =>
    intro hb
    obtain ⟨hlen, hwr⟩ := hb.receive.length hh (.inr hpc)
    obtain ⟨t, ht⟩ := copyFrame_of (s := s) (n := s.ic.len) (k := 0) hb.receive.wr (by omega)
      fun a _ ha => hwr a (by omega)
    cases hc.symm.trans ht
  | ok s1 =>
    obtain ⟨he, -, -⟩ := copyFrame_frame hc
    refine ⟨?_, ?_, ?_, fun hm => (hm.copyFrame hc).congr rfl fun _ => rfl, fun hb => ?_⟩
    all_goals rw [he]
    · rfl
    · rfl
    · rfl
    · exact hb.noFault

theorem framed_phaseN1 : Framed s (phaseN1 s) := by
  unfold phaseN1
  cases hp : ringPush s s.rx.rdr with
  | error f => exact fun hb => by cases hp.symm.trans (ringPush_of s.rx.rdr hb.receive.wr)
  | ok s1 =>
    refine ⟨?_, ?_, ?_, fun hm => (hm.ringPush hp).congr rfl fun _ => rfl, fun hb => ?_⟩
    all_goals obtain ⟨-, rfl⟩ := ringPush_ok hp
    · rfl
    · rfl
    · rfl
    · exact hb.noFault

/-- Behind the writer every byte of the ring was written (93 U10). -/
theorem ReceiveOk.written_rd (h : ReceiveOk s) (hne : s.rx.rd ≠ s.rx.wr) : Written s .ring s.rx.rd := by
  rcases h.ring with hall | ⟨hle, hbelow⟩
  · exact hall _ h.rd
  · exact hbelow _ (by omega)

theorem framed_execRxpop : Framed s (execRxpop s) := by
  refine .whenReady (.refl s) fun _ => .needsUart (.ite (fun _ => (Frame.refl s).respond _ _) fun hne => ?_)
  cases hm : memRead s .ring s.rx.rd with
  | ok b => exact .of rfl rfl rfl (fun _ => rfl) rfl
  | error f =>
    intro hb
    obtain ⟨b, hread⟩ := Option.isSome_iff_exists.mp (hb.receive.written_rd hne)
    cases hm.symm.trans (memRead_of (sp := .ring) hb.receive.rd hread)

/-- The finished Buffer is always known: a transfer in flight has a source (40_transmit R161, 60_exceptions R266). -/
theorem framed_phaseT2 (hh : s.ic.h = .txc) (hpc : s.ic.pc = .t2) : Framed s (phaseT2 s) := by
  unfold phaseT2
  cases hsrc : s.tx.dtx.src with
  | some i => exact .of rfl rfl rfl (fun _ => rfl) rfl
  | none =>
    refine ⟨rfl, rfl, rfl, fun hm => hm.congr rfl fun _ => rfl, fun hb => ?_⟩
    have hs := hb.transmit.source (hb.transmit.handlerInFlight hh (by simp [hpc]))
    simp [hsrc] at hs

/-! ### The other labels -/

theorem framed_ncPhase (hp : s.nc.op.hasPhase s.nc.pc = true) : Framed s (ncPhase s) := by
  cases hop : s.nc.op with
  | none => simp [hop, NcOp.hasPhase] at hp
  | write =>
    simp only [ncPhase, hop, writePhase]
    cases hpc : s.nc.pc with
    | w0 | b0 => exact .ite (fun _ => (Frame.refl s).respond _ _) fun _ => (Frame.refl s).setNcPc _
    | ws =>
      refine .ite (fun _ => .setNcPc ?_ _) fun _ => .of rfl rfl rfl (fun _ => rfl) rfl
      exact .of (by simp) (by simp) (by simp) (mem_setBuf_keep _ _ _ _) (by simp)
    | w1 | w5 => exact (Frame.setBuf s _ _ _).setNcPc _
    | w2 | b1 => exact .of rfl rfl rfl (fun _ => rfl) rfl
    | w3 => exact framed_phaseW3 hop hpc
    | w4 => exact .ite (fun _ => (Frame.refl s).setNcPc _) fun _ => .of rfl rfl rfl (fun _ => rfl) rfl
    | b2 => exact framed_phaseB2 hop hpc
    | s1 | s2 | g1 | g2 => exact .refl s
  | setpos =>
    simp only [ncPhase, hop]
    cases s.nc.pc with
    | s1 =>
      simp only [phaseS1]
      cases s.tracker? s.nc.t with
      | none => exact .refl s
      | some p => exact .of rfl rfl List.length_set (fun _ => rfl) rfl
    | s2 =>
      simp only [phaseS2]
      cases s.tracker? s.nc.t with
      | none => exact .refl s
      | some p => exact (Frame.setTracker s _ _).respond _ _
    | _ => exact .refl s
  | getpos =>
    simp only [ncPhase, hop]
    cases s.nc.pc with
    | g1 =>
      simp only [phaseG1]
      cases s.tracker? s.nc.t with
      | none => exact .refl s
      | some p => exact .of rfl rfl rfl (fun _ => rfl) rfl
    | g2 =>
      simp only [phaseG2]
      cases s.tracker? s.nc.t with
      | none => exact .refl s
      | some p => exact (Frame.refl s).respond _ _
    | _ => exact .refl s

theorem framed_icPhase (hp : s.ic.h.hasPhase s.ic.pc = true) : Framed s (icPhase s) := by
  have hh := (hasPhase_iff _ _).mp hp
  cases hpc : s.ic.pc <;> rw [hpc] at hh <;> simp only [icPhase, hpc]
  case t2 => exact framed_phaseT2 hh hpc
  case t3 => exact (Frame.setBuf s _ _ _).setIcPc _
  case t4 => exact .ite (fun _ => .of rfl rfl rfl (fun _ => rfl) rfl) fun _ => (Frame.refl s).setIcPc _
  case t6 =>
    unfold phaseT6
    cases s.tx.hd <;> exact .of rfl rfl rfl (fun _ => rfl) rfl
  case i4 => exact framed_phaseI4 hh hpc
  case i7 =>
    unfold phaseI7
    cases s.rx.cbReg <;> cases s.rx.qAtt <;> exact .of rfl rfl rfl (fun _ => rfl) rfl
  case n1 => exact framed_phaseN1
  case o1 | o2 =>
    simp only [phaseO1, phaseO2]
    cases s.tracker? s.ic.t with
    | none => exact .refl s
    | some p => exact .of rfl rfl List.length_set (fun _ => rfl) rfl
  case t1 | t5 | i1 | i2 | i3 | i5 | i6 | e1 => exact .of rfl rfl rfl (fun _ => rfl) rfl

theorem framed_exec (i : Instr) (s : State) : Framed s (exec i s) := by
  cases i with
  | init baud parity hd =>
    refine .whenReady (.refl s) fun _ => .ite (fun _ => trivial) fun _ => ?_
    exact .of rfl rfl rfl (fun _ => rfl) rfl
  | write n =>
    refine .whenReady (.refl s) fun _ => .needsUart (.guarded (.refl s) fun _ => ?_)
    exact .of rfl rfl rfl (fun _ => rfl) rfl
  | isbusy => exact .whenReady (.refl s) fun _ => .needsUart ((Frame.refl s).respond _ _)
  | chkfrm =>
    refine .whenReady (.refl s) fun _ => .needsUart (.ite (fun _ => ?_) fun _ => (Frame.refl s).respond _ _)
    exact .of rfl rfl rfl (fun _ => rfl) rfl
  | setrxcb cb q => exact .whenReady (.refl s) fun _ => .of rfl rfl rfl (fun _ => rfl) rfl
  | rxpop => exact framed_execRxpop
  | posinit t =>
    refine .trackerCommand (.refl s) (fun _ => (Frame.refl s).respond _ _) fun _ _ => ?_
    obtain ⟨l, hl, hn⟩ := markInited_eq s t.toNat
    rw [hl]
    exact .of rfl rfl hn (fun _ => rfl) rfl
  | initall =>
    refine .whenReady (.refl s) fun _ => .ite (fun _ => .of rfl rfl rfl (fun _ => rfl) rfl) fun _ => ?_
    obtain ⟨l, hl, hn⟩ := foldl_markInited_eq (s.reg.slots.take s.reg.n) s
    rw [hl]
    exact .of rfl rfl hn (fun _ => rfl) rfl
  | setdir t sign =>
    exact .trackerCommand (.refl s) (fun _ => (Frame.refl s).respond _ _) fun _ _ => (Frame.setTracker s _ _).respond _ _
  | setpos t target | getpos t =>
    refine .trackerCommand (.refl s) (fun _ => (Frame.refl s).respond _ _) fun _ _ => .needsInited ?_
    exact .of rfl rfl rfl (fun _ => rfl) rfl
  | ncstep => exact .guarded (.refl s) fun hr => framed_ncPhase (hasPhase_of_ncstepReady hr)
  | icstep => exact .guarded (.refl s) fun hr => framed_icPhase (hasPhase_of_icstepReady hr)
  | dtxb => exact framed_execDtxb
  | drxb => exact framed_execDrxb
  | eqdisp | ltc | ltxe | lidle => exact .guarded (.refl s) fun _ => .of rfl rfl rfl (fun _ => rfl) rfl
  | lineb b =>
    refine .guarded (.refl s) fun _ => .ite (fun _ => ?_) fun _ => ?_
    · exact .of rfl rfl rfl (fun _ => rfl) rfl
    · exact .of rfl rfl rfl (fun _ => rfl) rfl
  | cntup t | cntdn t => exact .trackerEvent fun _ => .guarded (.refl s) fun _ => .setTracker s _ _
  | irqtxc | irqidle | irqrxne | irqore => exact .guarded (.refl s) fun _ => .enterHandler s _ _
  | irqovf t => exact .trackerEvent fun _ => .guarded (.refl s) fun _ => .of rfl rfl rfl (fun _ => rfl) rfl

end Sys2Proof.Machine

/-! ## The receive invariant (10_state R59 (c), (d); 41_receive R185). -/

namespace Sys2Proof.Machine

variable {s t : State}

/-! ### What leaves the receive side -/

/-- `t` has the receive side and the interrupt-context sequencer of `s`. -/
structure KeepsReceive (s t : State) : Prop where
  cfg : t.cfg = s.cfg
  rx : t.rx = s.rx
  ic : t.ic = s.ic

theorem KeepsReceive.receiveOk (k : KeepsReceive s t) (h : ReceiveOk s) : ReceiveOk t := by
  obtain ⟨hc, hr, hi⟩ := k
  have hscr := fun a => (written_rx_congr hr a).1
  have hring := fun a => (written_rx_congr hr a).2
  exact {
    cap := by simpa only [hc] using h.cap
    remLow := by simpa only [hr] using h.remLow
    remHigh := by simpa only [hc, hr] using h.remHigh
    stored := by simpa only [hc, hr, hscr] using h.stored
    length := by simpa only [hc, hi, hscr] using h.length
    wr := by simpa only [hc, hr] using h.wr
    rd := by simpa only [hc, hr] using h.rd
    ring := by simpa only [hc, hr, hring] using h.ring
    handlerPhase := by simpa only [hi] using h.handlerPhase }

/-- A handler other than that of the idle line copies no frame. -/
theorem ReceiveOk.of_otherHandler (h : ReceiveOk s) (hc : t.cfg = s.cfg) (hr : t.rx = s.rx) (hi : t.ic.h ≠ .idle)
    (hp : t.ic.h ≠ .none → t.ic.h = t.ic.pc.handler) : ReceiveOk t :=
  have h1 : ReceiveOk { t with ic := s.ic } := KeepsReceive.receiveOk ⟨hc, hr, rfl⟩ h
  { h1 with length := (absurd · hi), handlerPhase := fun hn => (hasPhase_iff _ _).mpr (hp hn) }

theorem ReceiveOk.setBuf (h : ReceiveOk s) (i : BufId) (f : TxBuf) : ReceiveOk (s.setBuf i f) :=
  KeepsReceive.receiveOk ⟨by simp, by simp, by simp⟩ h

/-- Normal context leaves the receive side to the host commands and the interrupt context (60_exceptions R279). -/
theorem ReceiveOk.ncPhase (h : ReceiveOk s) : Ensures True ReceiveOk (ncPhase s) := by
  cases hop : s.nc.op with
  | none => simp only [Machine.ncPhase, hop]; exact h
  | write =>
    simp only [Machine.ncPhase, hop, writePhase]
    cases s.nc.pc with
    | w0 | b0 | w4 => exact .ite (fun _ => { h with }) fun _ => { h with }
    | ws => exact .ite (fun _ => KeepsReceive.receiveOk ⟨by simp, by simp, by simp⟩ h) fun _ => { h with }
    | w1 | w5 => exact { h.setBuf _ _ with }
    | w3 =>
      refine .ite (fun _ => ?_) fun _ => trivial
      cases hw : memWriteBytes s s.nc.tgt.space (s.buf s.nc.tgt).fill s.nc.chunkBytes with
      | error f => trivial
      | ok s1 =>
        obtain ⟨hs, -⟩ := memWriteBytes_ok hw
        have h1 := KeepsReceive.receiveOk ⟨hs.cfg, memWriteBytes_buf_rx hw, hs.ic⟩ h
        exact { h1.setBuf _ _ with }
    | b2 =>
      simp only [phaseB2]
      cases s.nc.data[s.nc.ip]? with
      | none => trivial
      | some b => exact { h with }
    | w2 | b1 | s1 | s2 | g1 | g2 => exact { h with }
  | setpos | getpos =>
    simp only [Machine.ncPhase, hop]
    cases s.nc.pc <;> simp only [phaseS1, phaseS2, phaseG1, phaseG2] <;> cases s.tracker? s.nc.t <;> exact { h with }

/-- The completion and the overflow handler leave the receive side. -/
theorem ReceiveOk.otherPhase (h : ReceiveOk s) (hp : s.ic.h.hasPhase s.ic.pc = true)
    (hh : s.ic.h = .txc ∨ s.ic.h = .ovf) : Ensures True ReceiveOk (icPhase s) := by
  have hp := (hasPhase_iff _ _).mp hp
  have hi : s.ic.h ≠ .idle := by rcases hh with hh | hh <;> simp [hh]
  cases hpc : s.ic.pc <;> rw [hpc] at hp <;> simp only [icPhase, hpc]
  case t1 | t5 => exact h.of_otherHandler rfl rfl hi fun _ => hp
  case t2 =>
    unfold phaseT2
    cases s.tx.dtx.src with
    | none => exact { h with }
    | some i => exact h.of_otherHandler rfl rfl hi fun _ => hp
  case t3 => exact h.of_otherHandler (by simp) (by simp) (by simpa using hi) fun _ => by simp [hp, IcPhase.handler]
  case t4 =>
    exact .ite (fun _ => h.of_otherHandler rfl rfl hi fun _ => hp) fun _ => h.of_otherHandler rfl rfl hi fun _ => hp
  case t6 =>
    unfold phaseT6
    cases s.tx.hd <;> exact h.of_otherHandler rfl rfl nofun (absurd rfl)
  case o1 =>
    unfold phaseO1
    cases s.tracker? s.ic.t with
    | none => exact h
    | some p => exact h.of_otherHandler rfl rfl hi fun _ => hp
  case o2 =>
    unfold phaseO2
    cases s.tracker? s.ic.t with
    | none => exact h
    | some p => exact h.of_otherHandler rfl rfl nofun (absurd rfl)
  case i1 | i2 | i3 | i4 | i5 | i6 | i7 | n1 | e1 => simp [hp, IcPhase.handler] at hh

/-! ### The ring -/

/-- The cursors are in range and the ring was written as far as the writer has come. -/
structure RingOk (s : State) : Prop where
  wr : s.rx.wr < s.cfg.ringCap
  rd : s.rx.rd < s.cfg.ringCap
  written : (∀ a, a < s.cfg.ringCap → Written s .ring a) ∨
    (s.rx.rd ≤ s.rx.wr ∧ ∀ a, a < s.rx.wr → Written s .ring a)

theorem ReceiveOk.ringOk (h : ReceiveOk s) : RingOk s := ⟨h.wr, h.rd, h.ring⟩

/-- A push that wraps has written the last place: the ring is then written everywhere. -/
theorem RingOk.ringPush {b : Byte} (h : RingOk s) (hp : ringPush s b = .ok t) : RingOk t := by
  have hold : ∀ a, (Written s .ring a ∨ a = s.rx.wr) → Written t .ring a := fun a ha =>
    (written_ringPush hp .ring a).mpr (ha.symm.imp_left fun e => ⟨rfl, e⟩)
  obtain ⟨-, rfl⟩ := ringPush_ok hp
  obtain ⟨hwr, hrd, hwritten⟩ := h
  refine ⟨Nat.mod_lt _ (by omega), hrd, ?_⟩
  rcases hwritten with hall | ⟨hle, hbelow⟩
  · exact .inl fun a ha => hold a (.inl (hall a ha))
  · have hup : ∀ a, a < s.rx.wr + 1 → Written s .ring a ∨ a = s.rx.wr := fun a ha => by
      by_cases e : a = s.rx.wr
      · exact .inr e
      · exact .inl (hbelow a (by omega))
    by_cases hlast : s.rx.wr + 1 = s.cfg.ringCap
    · exact .inl fun a ha => hold a (hup a (hlast ▸ ha))
    · have hmod : (s.rx.wr + 1) % s.cfg.ringCap = s.rx.wr + 1 := Nat.mod_eq_of_lt (by omega)
      refine .inr ⟨?_, fun a ha => hold a (hup a ?_)⟩
      · simp only [hmod]; omega
      · simpa only [hmod] using ha

theorem RingOk.copyFrame {n : Nat} : ∀ {s t : State} {k : Nat}, RingOk s → copyFrame s k n = .ok t → RingOk t := by
  induction n with
  | zero => intro s t k h hc; cases hc; exact h
  | succ n ih =>
    intro s t k h hc
    simp only [Machine.copyFrame] at hc
    split at hc
    · split at hc
      · rename_i s1 h1
        exact ih (h.ringPush h1) hc
      · cases hc
    · cases hc

/-! ### Labels that write the receive side -/

theorem ReceiveOk.execInit (h : ReceiveOk s) (baud : BitVec 29) (parity : Parity) (hd : Bool) :
    Ensures True ReceiveOk (execInit baud parity hd s) := by
  refine .whenReady h fun _ => .ite (fun _ => trivial) fun _ => ?_
  cases hm : s.cfg.rxMode with
  | dma => exact { h with
      remLow := h.cap
      remHigh := Nat.le_refl _
      stored := fun a ha => absurd ha (by simp) }
  | byte => exact { h with }

theorem ReceiveOk.execRxpop (h : ReceiveOk s) : Ensures True ReceiveOk (execRxpop s) := by
  refine .whenReady h fun _ => .needsUart (.ite (fun _ => { h with }) fun hne => ?_)
  cases memRead s .ring s.rx.rd with
  | error f => trivial
  | ok b =>
    have hwr := h.wr
    refine { h with rd := Nat.mod_lt _ (by omega), ring := h.ring.imp_right fun ⟨hle, hw⟩ => ⟨?_, hw⟩ }
    change (s.rx.rd + 1) % s.cfg.ringCap ≤ s.rx.wr
    rw [Nat.mod_eq_of_lt (by omega)]
    omega

/-- The byte stored extends what the engine has stored; the count that would reach 0 is reloaded (41_receive R182). -/
theorem ReceiveOk.execDrxb (h : ReceiveOk s) : Ensures True ReceiveOk (execDrxb s) := by
  refine .guarded h fun _ => ?_
  cases hw : memWrite s .scr (s.cfg.scratchCap - s.rx.drx.rem) s.rx.rdr with
  | error f => trivial
  | ok s1 =>
    obtain ⟨-, rfl⟩ := memWrite_ok hw
    have hlow := h.remLow
    have hhigh := h.remHigh
    have hnext : 1 ≤ nextDrxRem s.cfg.scratchCap s.rx.drx.rem ∧
        nextDrxRem s.cfg.scratchCap s.rx.drx.rem ≤ s.cfg.scratchCap ∧
        s.cfg.scratchCap - nextDrxRem s.cfg.scratchCap s.rx.drx.rem ≤ s.cfg.scratchCap - s.rx.drx.rem + 1 := by
      unfold nextDrxRem
      split <;> omega
    have hold := fun a => (written_setMem_write s .scr .scr (s.cfg.scratchCap - s.rx.drx.rem) a s.rx.rdr).mpr
    exact { h with
      remLow := hnext.1
      remHigh := hnext.2.1
      stored := fun a ha => hold a <| by
        have ha : a < s.cfg.scratchCap - nextDrxRem s.cfg.scratchCap s.rx.drx.rem := ha
        by_cases e : a = s.cfg.scratchCap - s.rx.drx.rem
        · exact .inl ⟨rfl, e⟩
        · exact .inr (h.stored a (by omega))
      length := fun hh hp => (h.length hh hp).imp_right fun hall a ha => hold a (.inr (hall a ha)) }

theorem ReceiveOk.phaseI4 (h : ReceiveOk s) (hh : s.ic.h = .idle) : Ensures True ReceiveOk (phaseI4 s) := by
  unfold Machine.phaseI4
  cases hc : copyFrame s 0 s.ic.len with
  | error f => trivial
  | ok s1 =>
    obtain ⟨hwr, hrd, hring⟩ := h.ringOk.copyFrame hc
    obtain ⟨he, -, -⟩ := copyFrame_frame hc
    rw [he] at hwr hrd hring ⊢
    exact { h with
      wr := hwr, rd := hrd, ring := hring
      length := fun _ hp => by simp at hp
      handlerPhase := fun _ => by simp [hh, Handler.hasPhase] }

theorem ReceiveOk.phaseN1 (h : ReceiveOk s) : Ensures True ReceiveOk (phaseN1 s) := by
  unfold Machine.phaseN1
  cases hp : ringPush s s.rx.rdr with
  | error f => trivial
  | ok s1 =>
    obtain ⟨hwr, hrd, hring⟩ := h.ringOk.ringPush hp
    obtain ⟨-, rfl⟩ := ringPush_ok hp
    exact { h with
      wr := hwr, rd := hrd, ring := hring
      length := nofun
      handlerPhase := absurd rfl }

/-- Phase `I2` latches what the engine has stored, which is less than the whole scratch buffer (41_receive R185). -/
theorem ReceiveOk.phaseI2 (h : ReceiveOk s) (hh : s.ic.h = .idle) : Ensures True ReceiveOk (phaseI2 s) := by
  have hlow := h.remLow
  have hcap := h.cap
  exact { h with
    length := fun _ _ => ⟨show s.cfg.scratchCap - s.rx.drx.rem < s.cfg.scratchCap by omega, h.stored⟩
    handlerPhase := fun _ => by simp [hh, Handler.hasPhase] }

/-- Phase `I3` resets the count; the received length stays (41_receive R186). -/
theorem ReceiveOk.phaseI3 (h : ReceiveOk s) (hh : s.ic.h = .idle) (hpc : s.ic.pc = .i3) :
    Ensures True ReceiveOk (phaseI3 s) :=
  { h with
    remLow := h.cap
    remHigh := Nat.le_refl _
    stored := fun a ha => absurd ha (by simp)
    length := fun _ _ => h.length hh (.inl hpc)
    handlerPhase := fun _ => by simp [hh, Handler.hasPhase] }

theorem ReceiveOk.icPhase (h : ReceiveOk s) (hp : s.ic.h.hasPhase s.ic.pc = true) : Ensures True ReceiveOk (icPhase s) := by
  have hh := (hasPhase_iff _ _).mp hp
  cases hpc : s.ic.pc <;> rw [hpc] at hh
  case t1 | t2 | t3 | t4 | t5 | t6 => exact h.otherPhase hp (.inl hh)
  case o1 | o2 => exact h.otherPhase hp (.inr hh)
  all_goals simp only [Machine.icPhase, hpc]
  case i1 =>
    unfold phaseI1
    cases s.cfg.rxMode <;> exact { h with
      length := fun _ hp => by simp at hp
      handlerPhase := fun _ => by simp [hh, Handler.hasPhase, IcPhase.handler] }
  case i2 => exact h.phaseI2 hh
  case i3 => exact h.phaseI3 hh hpc
  case i4 => exact h.phaseI4 hh
  case i5 | i6 =>
    exact { h with
      length := fun _ hp => by simp at hp
      handlerPhase := fun _ => by simp [hh, Handler.hasPhase, IcPhase.handler] }
  case i7 =>
    unfold phaseI7
    cases s.rx.cbReg <;> cases s.rx.qAtt <;> exact h.of_otherHandler rfl rfl nofun (absurd rfl)
  case n1 => exact h.phaseN1
  case e1 => exact { h with length := nofun, handlerPhase := absurd rfl }

theorem ReceiveOk.exec (h : ReceiveOk s) (i : Instr) : Ensures True ReceiveOk (exec i s) := by
  cases i with
  | init baud parity hd => exact h.execInit baud parity hd
  | chkfrm => exact .whenReady h fun _ => .needsUart (.ite (fun _ => { h with }) fun _ => { h with })
  | setrxcb cb q => exact .whenReady h fun _ => { h with }
  | rxpop => exact h.execRxpop
  | lineb b => exact .guarded h fun _ => .ite (fun _ => { h with }) fun _ => { h with }
  | drxb => exact h.execDrxb
  | lidle => exact .guarded h fun _ => { h with }
  | irqidle => exact .guarded h fun _ => { h with
      length := fun _ hp => by simp at hp
      handlerPhase := fun _ => rfl }
  | icstep => exact .guarded h fun hr => h.icPhase (hasPhase_of_icstepReady hr)
  | ncstep => exact .guarded h fun _ => h.ncPhase
  | write n => exact .whenReady h fun _ => .needsUart (.guarded h fun _ => { h with })
  | isbusy => exact .whenReady h fun _ => .needsUart { h with }
  | posinit t =>
    refine .trackerCommand h (fun _ => { h with }) fun _ _ => ?_
    obtain ⟨l, hl, -⟩ := markInited_eq s t.toNat
    rw [hl]
    exact { h with }
  | initall =>
    refine .whenReady h fun _ => .ite (fun _ => { h with }) fun _ => ?_
    obtain ⟨l, hl, -⟩ := foldl_markInited_eq (s.reg.slots.take s.reg.n) s
    rw [hl]
    exact { h with }
  | setdir t sign => exact .trackerCommand h (fun _ => { h with }) fun _ _ => { h with }
  | setpos t target | getpos t => exact .trackerCommand h (fun _ => { h with }) fun _ _ => .needsInited { h with }
  | eqdisp | ltc | ltxe => exact .guarded h fun _ => { h with }
  | dtxb =>
    simp only [Machine.exec, execDtxb]
    cases s.tx.dtx.src with
    | none => exact h
    | some i =>
      refine .guarded h fun _ => ?_
      cases memRead s i.space (s.tx.dtx.len - s.tx.dtx.rem) with
      | error f => trivial
      | ok b => exact { h with }
  | cntup t | cntdn t => exact .trackerEvent fun _ => .guarded h fun _ => { h with }
  | irqtxc | irqrxne | irqore => exact .guarded h fun _ => h.of_otherHandler rfl rfl nofun fun _ => rfl
  | irqovf t => exact .trackerEvent fun _ => .guarded h fun _ => h.of_otherHandler rfl rfl nofun fun _ => rfl

theorem receiveOk_resetWith {c : Cfg} (hc : c.ok = true) : ReceiveOk (State.resetWith c) := by
  simp only [Cfg.ok, Bool.and_eq_true, decide_eq_true_eq] at hc
  obtain ⟨⟨⟨⟨⟨-, hscr⟩, hring⟩, -⟩, -⟩, -⟩ := hc
  exact {
    cap := hscr
    remLow := hscr
    remHigh := Nat.le_refl _
    stored := fun a ha => absurd ha (by simp [State.resetWith, Rx.reset])
    length := nofun
    wr := hring
    rd := hring
    ring := .inr ⟨Nat.le_refl _, fun a ha => absurd ha (Nat.not_lt_zero a)⟩
    handlerPhase := absurd rfl }

/-- Settles O49: the invariant is kept by every label and holds after the pin `rst`. -/
theorem receiveInvariantKept : Obligations.ReceiveInvariantKept := fun _ _ h hs =>
  (ensures_step (fun _ _ h => { h with }) (fun _ => receiveOk_resetWith) (fun _ _ h => { h with })
    (fun i _ h => h.exec i) h).next hs

end Sys2Proof.Machine

/-! ## The transmit invariant (10_state R59 (a), (f), (g); R30, R32; 40_transmit R145, R146). -/

namespace Sys2Proof.Machine

variable {s t : State}

/-! ### The parts of the invariant -/

theorem buf_setBuf_fill (s : State) (i j : BufId) (f : TxBuf) :
    ((s.setBuf j f).buf i).fill = if i = j then f.fill else (s.buf i).fill := by
  split
  · rename_i h; rw [h, buf_setBuf_same]
  · rename_i h; rw [buf_setBuf_other s f h]

theorem buf_setBuf_busy (s : State) (i j : BufId) (f : TxBuf) :
    ((s.setBuf j f).buf i).busy = if i = j then f.busy else (s.buf i).busy := by
  split
  · rename_i h; rw [h, buf_setBuf_same]
  · rename_i h; rw [buf_setBuf_other s f h]

@[simp] theorem buf_setNcPc (s : State) (p : NcPhase) (i : BufId) : (setNcPc s p).buf i = s.buf i := rfl

/-- The part of `TransmitOk` that speaks of the command in progress. -/
structure ProducerOk (s : State) : Prop where
  ncPhase : s.nc.op ≠ .none → s.nc.op.hasPhase s.nc.pc = true
  input : s.nc.op = .write → s.nc.ip + s.nc.rem = s.nc.data.length
  inputLeft : s.nc.op = .write → (s.nc.pc = .ws ∨ s.nc.pc = .w1 ∨ s.nc.pc = .w2 ∨ s.nc.pc = .b1 ∨ s.nc.pc = .b2) →
    1 ≤ s.nc.rem
  spare : s.nc.op = .write → (s.nc.pc = .w1 ∨ s.nc.pc = .w2) → (s.buf s.nc.tgt).fill < s.cfg.txCap
  chunk : s.nc.op = .write → s.nc.pc = .w3 →
    1 ≤ s.nc.chunk ∧ s.nc.chunk ≤ s.nc.rem ∧ (s.buf s.nc.tgt).fill + s.nc.chunk ≤ s.cfg.txCap
  busy : ∀ i, (s.buf i).busy = true ↔
    s.nc.op = .write ∧ s.nc.tgt = i ∧ (s.nc.pc = .w2 ∨ s.nc.pc = .w3 ∨ s.nc.pc = .w4 ∨ s.nc.pc = .w5)

/-- `t` has the transfer and the interrupt-context sequencer of `s`, and at least its bytes. -/
structure KeepsTransfer (s t : State) : Prop where
  cfg : t.cfg = s.cfg
  written : ∀ (i : BufId) (a : Nat), Written s i.space a → Written t i.space a
  dtx : t.tx.dtx = s.tx.dtx
  inFlight : t.tx.inFlight = s.tx.inFlight
  tcif : t.tx.tcif = s.tx.tcif
  ic : t.ic = s.ic

theorem KeepsTransfer.transmitOk (k : KeepsTransfer s t) (h : TransmitOk s) (hfill : ∀ i, (t.buf i).fill ≤ s.cfg.txCap)
    (hq : ∀ i a, a < (t.buf i).fill → Written t i.space a) (hp : ProducerOk t) : TransmitOk t := by
  obtain ⟨hc, hw, hd, hf, ht, hi⟩ := k
  exact { hp with
    cap := by simpa only [hc] using h.cap
    fill := by simpa only [hc] using hfill
    queued := hq
    remLen := by simpa only [hd] using h.remLen
    lenCap := by simpa only [hc, hd] using h.lenCap
    draining := fun i a hs ha => hw i a (h.draining i a (hd ▸ hs) (hd ▸ ha))
    source := by simpa only [hd, hf] using h.source
    idle := by simpa only [hd, hf, ht] using h.idle
    complete := by simpa only [hd, ht] using h.complete
    handlerInFlight := by simpa only [hi, hf] using h.handlerInFlight
    handlerStopped := by simpa only [hi, hd, ht] using h.handlerStopped
    handlerPhase := by simpa only [hi] using h.handlerPhase }

theorem KeepsTransfer.trans {u : State} (k : KeepsTransfer s t) (k' : KeepsTransfer t u) : KeepsTransfer s u :=
  ⟨k'.cfg.trans k.cfg, fun i a h => k'.written i a (k.written i a h), k'.dtx.trans k.dtx, k'.inFlight.trans k.inFlight,
    k'.tcif.trans k.tcif, k'.ic.trans k.ic⟩

/-- No fill cursor has gone up. -/
theorem KeepsTransfer.transmitOk_of_le (k : KeepsTransfer s t) (h : TransmitOk s)
    (hle : ∀ i, (t.buf i).fill ≤ (s.buf i).fill) (hp : ProducerOk t) : TransmitOk t :=
  k.transmitOk h (fun i => (hle i).trans (h.fill i))
    (fun i a ha => k.written i a (h.queued i a (Nat.lt_of_lt_of_le ha (hle i)))) hp

/-- A fill cursor or a busy flag is no part of a transfer. -/
theorem keepsTransfer_setBuf (s : State) (i : BufId) (n : Nat) (b : Bool) :
    KeepsTransfer s (s.setBuf i { s.buf i with fill := n, busy := b }) where
  cfg := by simp
  written j a := by
    simp only [Written, State.readByte]
    rw [mem_setBuf_keep]
    exact id
  dtx := by simp
  inFlight := by simp
  tcif := by simp
  ic := by simp

/-- The receive side is no part of the transmit side. -/
theorem TransmitOk.congr (h : TransmitOk s) (hc : t.cfg = s.cfg) (htx : t.tx = s.tx) (hn : t.nc = s.nc)
    (hi : t.ic = s.ic) : TransmitOk t := by
  have hb := buf_congr htx
  have k : KeepsTransfer s t :=
    ⟨hc, fun i a => (written_buf_congr htx i a).mpr, by rw [htx], by rw [htx], by rw [htx], hi⟩
  exact k.transmitOk_of_le h (fun i => by rw [hb]) {
    ncPhase := by simpa only [hn] using h.ncPhase
    input := by simpa only [hn] using h.input
    inputLeft := by simpa only [hn] using h.inputLeft
    spare := by simpa only [hc, hn, hb] using h.spare
    chunk := by simpa only [hc, hn, hb] using h.chunk
    busy := by simpa only [hn, hb] using h.busy }

/-- A handler other than the completion handler is no part of the transmit side. -/
theorem TransmitOk.of_otherHandler (h : TransmitOk s) (hc : t.cfg = s.cfg) (htx : t.tx = s.tx) (hn : t.nc = s.nc)
    (hi : t.ic.h ≠ .txc) : TransmitOk t :=
  have h1 : TransmitOk { t with ic := s.ic } := h.congr hc htx hn rfl
  { h1 with handlerInFlight := (absurd · hi), handlerStopped := (absurd · hi), handlerPhase := (absurd · hi) }

/-- A running engine and a completion flag belong to a transfer in flight (10_state R59 (g)). -/
theorem TransmitOk.inFlight_of_active (h : TransmitOk s) (ha : s.tx.dtx.en = true ∨ s.tx.tcif = true) :
    s.tx.inFlight = true := by
  cases hf : s.tx.inFlight with
  | true => rfl
  | false =>
    obtain ⟨hen, htc⟩ := h.idle hf
    simp [hen, htc] at ha

/-- No Buffer is busy outside the producer's window (10_state R32). -/
theorem TransmitOk.noneBusy (h : TransmitOk s)
    (hn : s.nc.op = .write → ¬ (s.nc.pc = .w2 ∨ s.nc.pc = .w3 ∨ s.nc.pc = .w4 ∨ s.nc.pc = .w5)) (i : BufId) :
    ¬ (s.buf i).busy = true := fun hb =>
  have ⟨hop, _, hp⟩ := (h.busy i).mp hb
  hn hop hp

theorem TransmitOk.noneBusy_of_op (h : TransmitOk s) (hop : s.nc.op ≠ .write) : ∀ i, ¬ (s.buf i).busy = true :=
  h.noneBusy fun e => absurd e hop

theorem TransmitOk.noneBusy_of_ready (h : TransmitOk s) (hr : s.cmdReady = true) : ∀ i, ¬ (s.buf i).busy = true :=
  h.noneBusy_of_op (by simp [op_none_of_cmdReady hr])

/-- The sequencer with no `WRITE` in it. -/
theorem TransmitOk.setNc (h : TransmitOk s) (hb : ∀ i, ¬ (s.buf i).busy = true) {n : Nc} (hn : n.op ≠ .write)
    (hp : n.op ≠ .none → n.op.hasPhase n.pc = true) : TransmitOk { s with nc := n } :=
  { h with
    ncPhase := hp
    input := (absurd · hn)
    inputLeft := (absurd · hn)
    spare := (absurd · hn)
    chunk := (absurd · hn)
    busy := fun i => iff_of_false (hb i) fun hw => hn hw.1 }

/-- The end of a command. -/
theorem TransmitOk.respond (h : TransmitOk s) (hb : ∀ i, ¬ (s.buf i).busy = true) (st : BitVec 8) (v : BitVec 32) :
    TransmitOk (respond s st v) :=
  { h.setNc hb (n := { s.nc with op := .none }) nofun (absurd rfl) with }

/-- The answer of a host command that is accepted and done in one step. -/
theorem TransmitOk.answer (h : TransmitOk s) (hr : s.cmdReady = true) (st : BitVec 8) (v : BitVec 32) :
    TransmitOk (Machine.respond s st v) :=
  h.respond (h.noneBusy_of_ready hr) st v

/-! ### Normal context -/

/-- The phases that go on with input left and touch no Buffer: after the loop tests, and `B1` (40_transmit R142, R149, R150). -/
theorem TransmitOk.setNcPc (h : TransmitOk s) (hop : s.nc.op = .write) (hb : ∀ i, ¬ (s.buf i).busy = true)
    (hrem : 1 ≤ s.nc.rem) {p : NcPhase} (hp : p = .ws ∨ p = .b1 ∨ p = .b2) : TransmitOk (setNcPc s p) := by
  rcases hp with rfl | rfl | rfl
  all_goals exact { h with
    ncPhase := fun _ => by simp [hop, NcOp.hasPhase]
    inputLeft := fun _ _ => hrem
    spare := fun _ hp => by simp at hp
    chunk := fun _ hp => by simp at hp
    busy := fun i => iff_of_false (hb i) (by simp) }

/-- `WS` is held while no Buffer is selectable (40_transmit R143). -/
theorem chosen_spare (hpc : s.nc.pc = .ws) (hheld : s.ncHeld = false) : (s.buf s.chosen).fill < s.cfg.txCap := by
  have hsel : s.selectable s.chosen = true := by
    simp only [State.ncHeld, hpc, Bool.not_eq_false', Bool.or_eq_true] at hheld
    unfold State.chosen
    split
    · assumption
    · rename_i h0; exact hheld.resolve_left h0
  simp only [State.selectable, Bool.and_eq_true, decide_eq_true_eq] at hsel
  exact hsel.2

/-- The selected Buffer becomes the target; it is not yet busy (40_transmit R143). -/
theorem TransmitOk.select (h : TransmitOk s) (hop : s.nc.op = .write) (hpc : s.nc.pc = .ws) (hheld : s.ncHeld = false) :
    TransmitOk (Machine.setNcPc { s with nc := { s.nc with tgt := s.chosen } } .w1) :=
  { h with
    ncPhase := fun _ => by simp [hop, NcOp.hasPhase]
    inputLeft := fun _ _ => h.inputLeft hop (.inl hpc)
    spare := fun _ _ => chosen_spare (s := s) hpc hheld
    chunk := fun _ hp => by simp at hp
    busy := fun i => iff_of_false (h.noneBusy (by simp [hpc]) i) (by simp) }

@[simp] theorem fill_setBusy (s : State) (i j : BufId) (b : Bool) :
    ((s.setBuf j { s.buf j with busy := b }).buf i).fill = (s.buf i).fill := by
  rw [buf_setBuf_fill]
  split
  · rename_i e; rw [e]
  · rfl

theorem TransmitOk.phaseW1 (h : TransmitOk s) (hop : s.nc.op = .write) (hpc : s.nc.pc = .w1) :
    Ensures True TransmitOk (phaseW1 s) :=
  KeepsTransfer.transmitOk_of_le { keepsTransfer_setBuf s s.nc.tgt _ true with } h
    (fun i => (fill_setBusy s i s.nc.tgt true).le) {
      ncPhase := fun _ => by simp [hop, NcOp.hasPhase]
      input := by simpa using h.input
      inputLeft := fun _ _ => by simpa using h.inputLeft hop (by simp [hpc])
      spare := fun _ _ => by simpa using h.spare hop (.inl hpc)
      chunk := fun _ hp => by simp at hp
      busy := fun i => by
        have hb := h.noneBusy (by simp [hpc]) i
        rw [buf_setNcPc, buf_setBuf_busy]
        split
        · rename_i e; simp [hop, e]
        · rename_i e; simp [hb, Ne.symm e] }

/-- The fused selection is the selection followed by `W1` (40_transmit R143, R144). -/
theorem TransmitOk.phaseWS (h : TransmitOk s) (hop : s.nc.op = .write) (hpc : s.nc.pc = .ws) (hheld : s.ncHeld = false) :
    Ensures True TransmitOk (phaseWS s) := by
  refine .ite (fun _ => ?_) fun _ => h.select hop hpc hheld
  have h1 := (h.select hop hpc hheld).phaseW1 (by simp [hop]) (by simp)
  revert h1
  unfold Machine.phaseW1
  simp only [Machine.setNcPc]
  cases s.chosen <;> exact id

theorem TransmitOk.phaseW2 (h : TransmitOk s) (hop : s.nc.op = .write) (hpc : s.nc.pc = .w2) :
    Ensures True TransmitOk (phaseW2 s) :=
  { h with
    ncPhase := fun _ => by simp [hop, NcOp.hasPhase]
    inputLeft := fun _ hp => by simp at hp
    spare := fun _ hp => by simp at hp
    chunk := fun _ _ => by
      have hspare := h.spare hop (by simp [hpc])
      have hleft := h.inputLeft hop (by simp [hpc])
      change 1 ≤ min (s.cfg.txCap - (s.buf s.nc.tgt).fill) s.nc.rem ∧
        min (s.cfg.txCap - (s.buf s.nc.tgt).fill) s.nc.rem ≤ s.nc.rem ∧
        (s.buf s.nc.tgt).fill + min (s.cfg.txCap - (s.buf s.nc.tgt).fill) s.nc.rem ≤ s.cfg.txCap
      omega
    busy := fun i => (h.busy i).trans (by simp [hpc]) }

/-- Phase `W3` extends the queued bytes of its target by the chunk (40_transmit R146). -/
theorem TransmitOk.phaseW3 (h : TransmitOk s) (hop : s.nc.op = .write) (hpc : s.nc.pc = .w3) :
    Ensures True TransmitOk (phaseW3 s) := by
  refine .ite (fun hlen => ?_) fun _ => trivial
  cases hw : memWriteBytes s s.nc.tgt.space (s.buf s.nc.tgt).fill s.nc.chunkBytes with
  | error f => trivial
  | ok s1 =>
    obtain ⟨hs, -⟩ := memWriteBytes_ok hw
    obtain ⟨-, hrem, hcap⟩ := h.chunk hop hpc
    have hin := h.input hop
    have hnew := written_memWriteBytes hw
    have hold := fun (i : BufId) (a : Nat) (ha : Written s i.space a) => (hnew i.space a).mpr (.inr ha)
    have k1 : KeepsTransfer s s1 := ⟨hs.cfg, hold, by rw [hs.tx], by rw [hs.tx], by rw [hs.tx], hs.ic⟩
    have k2 := keepsTransfer_setBuf s1 s.nc.tgt ((s.buf s.nc.tgt).fill + s.nc.chunk) (s1.buf s.nc.tgt).busy
    refine KeepsTransfer.transmitOk { k1.trans k2 with } h (fun i => ?_) (fun i a ha => k2.written i a ?_) {
      ncPhase := fun _ => by simp [hop, NcOp.hasPhase]
      input := fun _ => show s.nc.ip + s.nc.chunk + (s.nc.rem - s.nc.chunk) = s.nc.data.length by omega
      inputLeft := fun _ hp => by simp at hp
      spare := fun _ hp => by simp at hp
      chunk := fun _ hp => by simp at hp
      busy := fun i => ?_ }
    · change ((s1.setBuf s.nc.tgt _).buf i).fill ≤ _
      rw [buf_setBuf_fill, hs.fill]
      split
      · exact hcap
      · exact h.fill i
    · change a < ((s1.setBuf s.nc.tgt _).buf i).fill at ha
      rw [buf_setBuf_fill, hs.fill] at ha
      split at ha
      · rename_i e
        subst e
        have ha : a < (s.buf s.nc.tgt).fill + s.nc.chunk := ha
        by_cases hlow : a < (s.buf s.nc.tgt).fill
        · exact hold _ a (h.queued _ a hlow)
        · exact (hnew _ a).mpr (.inl ⟨rfl, by omega, by omega⟩)
      · exact hold i a (h.queued i a ha)
    · have hb : (if i = s.nc.tgt then (s1.buf s.nc.tgt).busy else (s1.buf i).busy) = (s.buf i).busy := by
        split
        · rename_i e; rw [e, hs.busy]
        · exact hs.busy i
      change ((s1.setBuf s.nc.tgt _).buf i).busy = true ↔ _
      rw [buf_setBuf_busy, hb, h.busy i]
      simp [hpc]

theorem TransmitOk.phaseW4 (h : TransmitOk s) (hi : s.ic.h = .none) (hop : s.nc.op = .write) (hpc : s.nc.pc = .w4) :
    Ensures True TransmitOk (phaseW4 s) := by
  have hw5 : TransmitOk (Machine.setNcPc s .w5) := { h with
    ncPhase := fun _ => by simp [hop, NcOp.hasPhase]
    inputLeft := fun _ hp => by simp at hp
    spare := fun _ hp => by simp at hp
    chunk := fun _ hp => by simp at hp
    busy := fun i => (h.busy i).trans (by simp [hpc]) }
  refine .ite (fun _ => hw5) fun hf => ?_
  obtain ⟨-, htc⟩ := h.idle (by simpa using hf)
  exact { hw5 with
    remLen := Nat.le_refl _
    lenCap := h.fill s.nc.tgt
    draining := fun i a hs ha => by
      cases hs
      exact h.queued s.nc.tgt a ha
    source := fun _ => rfl
    idle := nofun
    complete := fun e => by simp [htc] at e
    handlerInFlight := fun _ _ => rfl
    handlerStopped := fun e => by simp [hi] at e }

theorem TransmitOk.phaseW5 (h : TransmitOk s) (hop : s.nc.op = .write) : Ensures True TransmitOk (phaseW5 s) :=
  KeepsTransfer.transmitOk_of_le { keepsTransfer_setBuf s s.nc.tgt _ false with } h
    (fun i => (fill_setBusy s i s.nc.tgt false).le) {
      ncPhase := fun _ => by simp [hop, NcOp.hasPhase]
      input := by simpa using h.input
      inputLeft := fun _ hp => by simp at hp
      spare := fun _ hp => by simp at hp
      chunk := fun _ hp => by simp at hp
      busy := fun i => by
        refine iff_of_false ?_ (by simp)
        rw [buf_setNcPc, buf_setBuf_busy]
        split
        · simp
        · rename_i e
          intro hb
          obtain ⟨-, ht, -⟩ := (h.busy i).mp hb
          exact e ht.symm }

theorem TransmitOk.phaseB2 (h : TransmitOk s) (hop : s.nc.op = .write) (hpc : s.nc.pc = .b2) :
    Ensures True TransmitOk (phaseB2 s) := by
  unfold Machine.phaseB2
  cases s.nc.data[s.nc.ip]? with
  | none => trivial
  | some b =>
    have hin := h.input hop
    have hleft := h.inputLeft hop (by simp [hpc])
    exact { h with
      ncPhase := fun _ => by simp [hop, NcOp.hasPhase]
      input := fun _ => show s.nc.ip + 1 + (s.nc.rem - 1) = s.nc.data.length by omega
      inputLeft := fun _ hp => by simp at hp
      spare := fun _ hp => by simp at hp
      chunk := fun _ hp => by simp at hp
      busy := fun i => iff_of_false (h.noneBusy (by simp [hpc]) i) (by simp) }

theorem TransmitOk.writePhase (h : TransmitOk s) (hi : s.ic.h = .none) (hop : s.nc.op = .write) (hheld : s.ncHeld = false) :
    Ensures True TransmitOk (writePhase s) := by
  unfold Machine.writePhase
  cases hpc : s.nc.pc with
  | w0 | b0 =>
    have hb := h.noneBusy (by simp [hpc])
    exact .ite (fun _ => h.respond hb _ _) fun hrem => h.setNcPc hop hb (by omega) (by simp)
  | ws => exact h.phaseWS hop hpc hheld
  | w1 => exact h.phaseW1 hop hpc
  | w2 => exact h.phaseW2 hop hpc
  | w3 => exact h.phaseW3 hop hpc
  | w4 => exact h.phaseW4 hi hop hpc
  | w5 => exact h.phaseW5 hop
  | b1 => exact h.setNcPc hop (h.noneBusy (by simp [hpc])) (h.inputLeft hop (by simp [hpc])) (by simp)
  | b2 => exact h.phaseB2 hop hpc
  | s1 | s2 | g1 | g2 => exact h

/-- The position commands hold no Buffer (43_position R226 to R229). -/
theorem TransmitOk.positionPhase (h : TransmitOk s) (hop : s.nc.op = .setpos ∨ s.nc.op = .getpos) :
    Ensures True TransmitOk (Machine.ncPhase s) := by
  have hb := h.noneBusy_of_op (by rcases hop with e | e <;> simp [e])
  rcases hop with hop | hop <;> simp only [Machine.ncPhase, hop] <;> cases s.nc.pc
  case inl.s1 =>
    simp only [phaseS1]
    cases s.tracker? s.nc.t with
    | none => exact h
    | some p =>
      have h1 := h.setNc hb (n := { s.nc with e := cntOf (directed p.dir s.nc.val.toInt), pc := .s2 }) (by simp [hop])
        (by simp [hop, NcOp.hasPhase])
      exact { h1 with }
  case inl.s2 | inr.g2 =>
    simp only [phaseS2, phaseG2]
    cases s.tracker? s.nc.t with
    | none => exact h
    | some p => exact { h.respond hb statusOk 0 with }
  case inr.g1 =>
    simp only [phaseG1]
    cases s.tracker? s.nc.t with
    | none => exact h
    | some p => exact h.setNc hb (by simp [hop]) (by simp [hop, NcOp.hasPhase])
  all_goals exact h

theorem TransmitOk.ncstep (h : TransmitOk s) (hr : s.ncstepReady = true) : Ensures True TransmitOk (Machine.ncPhase s) := by
  obtain ⟨hi, -, -, hheld⟩ := (ncstepReady_iff s).mp hr
  cases hop : s.nc.op with
  | none => simp only [Machine.ncPhase, hop]; exact h
  | write => simpa only [Machine.ncPhase, hop] using h.writePhase hi hop hheld
  | setpos => exact h.positionPhase (.inl hop)
  | getpos => exact h.positionPhase (.inr hop)

/-! ### The completion handler (40_transmit R160 to R165) -/

/-- The finished Buffer is emptied; the engine is stopped, so nothing of it is still to be read (40_transmit R162). -/
theorem TransmitOk.phaseT3 (h : TransmitOk s) (hh : s.ic.h = .txc) (hpc : s.ic.pc = .t3) :
    Ensures True TransmitOk (phaseT3 s) := by
  have hle : ∀ i, ((s.setBuf s.ic.done { s.buf s.ic.done with fill := 0 }).buf i).fill ≤ (s.buf i).fill := fun i => by
    rw [buf_setBuf_fill]
    split
    · exact Nat.zero_le _
    · exact Nat.le_refl _
  have hb : ∀ i, ((s.setBuf s.ic.done { s.buf s.ic.done with fill := 0 }).buf i).busy = (s.buf i).busy := fun i => by
    rw [buf_setBuf_busy]
    split
    · rename_i e; rw [e]
    · rfl
  have h3 : TransmitOk (s.setBuf s.ic.done { s.buf s.ic.done with fill := 0 }) :=
    (keepsTransfer_setBuf s s.ic.done 0 _).transmitOk_of_le h hle {
      ncPhase := by simpa using h.ncPhase
      input := by simpa using h.input
      inputLeft := by simpa using h.inputLeft
      spare := by
        simp only [setBuf_nc, setBuf_cfg]
        exact fun hop hp => Nat.lt_of_le_of_lt (hle _) (h.spare hop hp)
      chunk := by
        simp only [setBuf_nc, setBuf_cfg]
        intro hop hp
        obtain ⟨h1, h2, h3⟩ := h.chunk hop hp
        exact ⟨h1, h2, (Nat.add_le_add_right (hle _) _).trans h3⟩
      busy := by simpa only [setBuf_nc, hb] using h.busy }
  have hin := h.handlerInFlight hh (by simp [hpc])
  have hstop := h.handlerStopped hh (by simp [hpc]) (by simp [hpc])
  exact { h3 with
    handlerInFlight := fun _ _ => by simpa using hin
    handlerStopped := fun _ _ _ => by simpa using hstop
    handlerPhase := fun _ => rfl }

/-- The chained transfer reads the other Buffer's queued bytes (40_transmit R163). -/
theorem TransmitOk.phaseT4 (h : TransmitOk s) (hh : s.ic.h = .txc) (hpc : s.ic.pc = .t4) :
    Ensures True TransmitOk (phaseT4 s) := by
  have hin := h.handlerInFlight hh (by simp [hpc])
  obtain ⟨hen, htc⟩ := h.handlerStopped hh (by simp [hpc]) (by simp [hpc])
  refine .ite (fun _ => ?_) fun _ => { h with
    handlerInFlight := fun _ _ => hin
    handlerStopped := fun _ _ _ => ⟨hen, htc⟩
    handlerPhase := fun _ => rfl }
  exact { h with
    remLen := Nat.le_refl _
    lenCap := h.fill s.ic.done.other
    draining := fun i a hs ha => by
      cases hs
      exact h.queued s.ic.done.other a ha
    source := fun _ => rfl
    idle := fun e => by simp [hin] at e
    complete := fun e => by simp [htc] at e
    handlerInFlight := fun _ e => absurd rfl e
    handlerStopped := fun _ _ e => absurd rfl e
    handlerPhase := fun _ => rfl }

theorem TransmitOk.completionPhase (h : TransmitOk s) (hh : s.ic.h = .txc) : Ensures True TransmitOk (icPhase s) := by
  have hp := (hasPhase_iff _ _).mp (h.handlerPhase hh)
  cases hpc : s.ic.pc <;> simp only [icPhase, hpc]
  case t1 =>
    have hin := h.handlerInFlight hh (by simp [hpc])
    exact { h with
      idle := fun _ => ⟨rfl, rfl⟩
      complete := nofun
      handlerInFlight := fun _ _ => hin
      handlerStopped := fun _ _ _ => ⟨rfl, rfl⟩
      handlerPhase := fun _ => rfl }
  case t2 =>
    unfold phaseT2
    cases s.tx.dtx.src with
    | none => exact { h with }
    | some i =>
      have hin := h.handlerInFlight hh (by simp [hpc])
      have hstop := h.handlerStopped hh (by simp [hpc]) (by simp [hpc])
      exact { h with
        handlerInFlight := fun _ _ => hin
        handlerStopped := fun _ _ _ => hstop
        handlerPhase := fun _ => rfl }
  case t3 => exact h.phaseT3 hh hpc
  case t4 => exact h.phaseT4 hh hpc
  case t5 =>
    have hstop := h.handlerStopped hh (by simp [hpc]) (by simp [hpc])
    exact { h with
      source := nofun
      idle := fun _ => hstop
      handlerInFlight := fun _ e => absurd rfl e
      handlerStopped := fun _ _ e => absurd rfl e
      handlerPhase := fun _ => rfl }
  case t6 =>
    unfold phaseT6
    cases s.tx.hd <;> exact { h with handlerInFlight := nofun, handlerStopped := nofun, handlerPhase := nofun }
  case i1 | i2 | i3 | i4 | i5 | i6 | i7 | n1 | e1 | o1 | o2 => simp [hpc, IcPhase.handler] at hp

/-- The handlers of the receive side and of the trackers. -/
theorem TransmitOk.otherPhase (h : TransmitOk s) (hp : s.ic.h.hasPhase s.ic.pc = true) (hh : s.ic.h ≠ .txc) :
    Ensures True TransmitOk (icPhase s) := by
  have hp := (hasPhase_iff _ _).mp hp
  cases hpc : s.ic.pc <;> simp only [icPhase, hpc]
  case t1 | t2 | t3 | t4 | t5 | t6 => exact absurd (by rw [hp, hpc]; rfl) hh
  case i1 | i2 | i3 | i5 | i6 => exact h.of_otherHandler rfl rfl rfl hh
  case i4 =>
    unfold phaseI4
    cases hc : copyFrame s 0 s.ic.len with
    | error f => trivial
    | ok s1 =>
      obtain ⟨he, -, -⟩ := copyFrame_frame hc
      rw [he]
      exact h.of_otherHandler rfl rfl rfl hh
  case i7 =>
    unfold phaseI7
    cases s.rx.cbReg <;> cases s.rx.qAtt <;> exact h.of_otherHandler rfl rfl rfl nofun
  case n1 =>
    unfold phaseN1
    cases hr : ringPush s s.rx.rdr with
    | error f => trivial
    | ok s1 =>
      obtain ⟨-, rfl⟩ := ringPush_ok hr
      exact h.of_otherHandler rfl rfl rfl nofun
  case e1 => exact h.of_otherHandler rfl rfl rfl nofun
  case o1 =>
    unfold phaseO1
    cases s.tracker? s.ic.t with
    | none => exact h
    | some p => exact h.of_otherHandler rfl rfl rfl hh
  case o2 =>
    unfold phaseO2
    cases s.tracker? s.ic.t with
    | none => exact h
    | some p => exact h.of_otherHandler rfl rfl rfl nofun

theorem TransmitOk.icstep (h : TransmitOk s) (hr : s.icstepReady = true) : Ensures True TransmitOk (icPhase s) := by
  obtain ⟨-, hp, -⟩ := (icstepReady_iff s).mp hr
  by_cases hh : s.ic.h = .txc
  · exact h.completionPhase hh
  · exact h.otherPhase hp hh

/-! ### The boundary steps and the host commands -/

/-- The last byte moved sets the completion flag (40_transmit R152; 10_state R35). -/
theorem TransmitOk.execDtxb (h : TransmitOk s) : Ensures True TransmitOk (execDtxb s) := by
  unfold Machine.execDtxb
  cases hsrc : s.tx.dtx.src with
  | none => exact h
  | some i =>
    refine .guarded h fun hr => ?_
    obtain ⟨hen, hrem⟩ := moving_of_dtxbReady hr
    cases memRead s i.space (s.tx.dtx.len - s.tx.dtx.rem) with
    | error f => trivial
    | ok b =>
      have hin := h.inFlight_of_active (.inl hen)
      exact { h with
        remLen := (Nat.sub_le _ _).trans h.remLen
        idle := fun e => by simp [hin] at e
        complete := fun e => by
          simp only [Bool.or_eq_true, decide_eq_true_eq] at e
          rcases e with e | e
          · have := h.complete e; omega
          · exact e
        handlerStopped := fun hh h1 h6 => absurd ((h.handlerStopped hh h1 h6).1.symm.trans hen) (by simp) }

/-- The payload is latched whole, with no byte of it consumed (40_transmit R141). -/
theorem TransmitOk.execWrite (h : TransmitOk s) (n : BitVec 32) : Ensures True TransmitOk (execWrite n s) := by
  refine .whenReady h fun hr => .needsUart (.guarded h fun hp => ?_)
  have hb := h.noneBusy_of_ready hr
  have hlen : n.toNat ≤ s.inp.wdata.length := by simpa [State.payloadThere] using hp
  cases s.cfg.txMode with
  | dma | irq =>
    exact { h with
      ncPhase := fun _ => rfl
      input := fun _ => by simp [State.payload, hlen]
      inputLeft := fun _ hp => by simp at hp
      spare := fun _ hp => by simp at hp
      chunk := fun _ hp => by simp at hp
      busy := fun i => iff_of_false (hb i) (by simp) }

theorem TransmitOk.exec (h : TransmitOk s) (i : Instr) : Ensures True TransmitOk (exec i s) := by
  cases i with
  | init baud parity hd =>
    exact .whenReady h fun hr => .ite (fun _ => trivial) fun _ => { h.answer hr statusOk 0 with }
  | write n => exact h.execWrite n
  | isbusy => exact .whenReady h fun hr => .needsUart (h.answer hr _ _)
  | chkfrm =>
    exact .whenReady h fun hr => .needsUart (.ite (fun _ => { h.answer hr statusOk 1 with }) fun _ => h.answer hr _ _)
  | setrxcb cb q => exact .whenReady h fun hr => { h.answer hr statusOk 0 with }
  | rxpop =>
    refine .whenReady h fun hr => .needsUart (.ite (fun _ => h.answer hr _ _) fun _ => ?_)
    cases memRead s .ring s.rx.rd with
    | error f => trivial
    | ok b => exact { h.answer hr statusOk (popValue b) with }
  | posinit t =>
    refine .trackerCommand h (fun hr => h.answer hr _ _) fun hr _ => ?_
    obtain ⟨l, hl, -⟩ := markInited_eq s t.toNat
    rw [hl]
    exact { h.answer hr statusOk 0 with }
  | initall =>
    refine .whenReady h fun hr => .ite (fun _ => { h.answer hr statusOk 0 with }) fun _ => ?_
    obtain ⟨l, hl, -⟩ := foldl_markInited_eq (s.reg.slots.take s.reg.n) s
    rw [hl]
    exact { h.answer hr statusOk 0 with }
  | setdir t sign => exact .trackerCommand h (fun hr => h.answer hr _ _) fun hr _ => { h.answer hr statusOk 0 with }
  | setpos t target | getpos t =>
    refine .trackerCommand h (fun hr => h.answer hr _ _) fun hr _ => .needsInited ?_
    exact h.setNc (h.noneBusy_of_ready hr) nofun fun _ => rfl
  | ncstep => exact .guarded h h.ncstep
  | icstep => exact .guarded h h.icstep
  | eqdisp | ltc | ltxe | lidle => exact .guarded h fun _ => { h with }
  | dtxb => exact h.execDtxb
  | lineb b => exact .guarded h fun _ => .ite (fun _ => { h with }) fun _ => { h with }
  | drxb =>
    refine .guarded h fun _ => ?_
    cases hw : memWrite s .scr (s.cfg.scratchCap - s.rx.drx.rem) s.rx.rdr with
    | error f => trivial
    | ok s1 =>
      obtain ⟨-, rfl⟩ := memWrite_ok hw
      exact h.congr rfl rfl rfl rfl
  | cntup t | cntdn t => exact .trackerEvent fun _ => .guarded h fun _ => { h with }
  | irqtxc =>
    refine .guarded h fun hr => ?_
    simp only [State.irqRequested, Bool.and_eq_true] at hr
    obtain ⟨-, -, htc⟩ := hr
    have hin := h.inFlight_of_active (.inr htc)
    exact { h with
      handlerInFlight := fun _ _ => hin
      handlerStopped := fun _ e => absurd rfl e
      handlerPhase := fun _ => rfl }
  | irqidle | irqrxne | irqore => exact .guarded h fun _ => h.of_otherHandler rfl rfl rfl nofun
  | irqovf t => exact .trackerEvent fun _ => .guarded h fun _ => h.of_otherHandler rfl rfl rfl nofun

theorem transmitOk_resetWith {c : Cfg} (hc : c.ok = true) : TransmitOk (State.resetWith c) := by
  have hcap : 1 ≤ c.txCap := by
    simp only [Cfg.ok, Bool.and_eq_true, decide_eq_true_eq] at hc
    obtain ⟨⟨⟨⟨⟨htx, -⟩, -⟩, -⟩, -⟩, -⟩ := hc
    exact htx
  exact {
    cap := hcap
    fill := fun i => by cases i <;> exact Nat.zero_le _
    queued := fun i a ha => by cases i <;> exact absurd ha (Nat.not_lt_zero a)
    remLen := Nat.le_refl _
    lenCap := Nat.zero_le _
    draining := nofun
    source := nofun
    idle := fun _ => ⟨rfl, rfl⟩
    complete := nofun
    handlerInFlight := nofun
    handlerStopped := nofun
    handlerPhase := nofun
    ncPhase := absurd rfl
    input := nofun
    inputLeft := nofun
    spare := nofun
    chunk := nofun
    busy := fun i => iff_of_false (by cases i <;> exact Bool.false_ne_true) nofun }

/-- Settles O48: the invariant is kept by every label and holds after the pin `rst`. -/
theorem transmitInvariantKept : Obligations.TransmitInvariantKept := fun _ _ h hs =>
  (ensures_step (fun _ _ h => { h with }) (fun _ => transmitOk_resetWith) (fun _ hr h => h.answer hr _ _)
    (fun i _ h => h.exec i) h).next hs

end Sys2Proof.Machine

/-! ## The whole invariant (10_state R59; 20_memory R84; 60_exceptions R266; 93 U10). -/

namespace Sys2Proof.Machine

variable {s t : State}

theorem ShapeOk.of_frame (h : ShapeOk s) (k : Frame s t) : ShapeOk t where
  cfg := by rw [k.cfg]; exact h.cfg
  trackers := by rw [k.trackers, k.cfg]; exact h.trackers
  regCount := by rw [k.reg, k.cfg]; exact h.regCount
  regSlots := by rw [k.reg, k.cfg]; exact h.regSlots

/-- A label that keeps the frame and the two sides keeps the whole invariant, and a fault would break it. -/
theorem BlockOk.exec (h : BlockOk s) (i : Instr) : Ensures False BlockOk (exec i s) :=
  ((framed_exec i s).and ((h.transmit.exec i).and (h.receive.exec i))).mono (fun hf => hf.1 h)
    fun _ ⟨k, ht, hr⟩ => ⟨h.shape.of_frame k, k.memory h.memory, ht, hr, k.noFault h⟩

theorem memoryOk_resetWith (c : Cfg) : MemoryOk (State.resetWith c) where
  canonical := resetWith_wf c
  inRange sp a hw := by cases sp <;> exact absurd hw Bool.false_ne_true

theorem blockOk_resetWith {c : Cfg} (hc : c.ok = true) : BlockOk (State.resetWith c) where
  shape := ⟨hc, List.length_replicate, rfl, rfl⟩
  memory := memoryOk_resetWith c
  transmit := transmitOk_resetWith hc
  receive := receiveOk_resetWith hc
  noFault := rfl

theorem BlockOk.answer (h : BlockOk s) (hr : s.cmdReady = true) (st : BitVec 8) (v : BitVec 32) :
    BlockOk (respond s st v) :=
  have k := (Frame.refl s).respond st v
  ⟨h.shape.of_frame k, k.memory h.memory, h.transmit.answer hr st v, { h.receive with }, h.noFault⟩

/-- What comes to the ports is no part of the invariant. -/
theorem BlockOk.setInp (h : BlockOk s) (p : Inputs) : BlockOk { s with inp := p } :=
  ⟨{ h.shape with }, h.memory.congr rfl fun _ => rfl, { h.transmit with }, { h.receive with }, h.noFault⟩

/-- Settles O50: `ChannelMismatch` would need a completion handler with no transfer in flight. -/
theorem blockInvariantKept : Obligations.BlockInvariantKept := fun _ h =>
  have hstep := ensures_iff.mp <| ensures_step (fun _ p h => h.setInp p) (fun _ => blockOk_resetWith)
    (fun _ hr h => h.answer hr _ _) (fun i _ h => h.exec i) h
  ⟨hstep.2, hstep.1⟩

end Sys2Proof.Machine

/-! ## The memories over one step (20_memory R80, R84): their form and their bounds. -/

namespace Sys2Proof.Machine

variable {s t : State}

theorem MemoryOk.respond (h : MemoryOk s) (st : BitVec 8) (v : BitVec 32) : MemoryOk (respond s st v) :=
  ((Frame.refl s).respond st v).memory h

theorem MemoryOk.exec (h : MemoryOk s) (i : Instr) : Ensures True MemoryOk (exec i s) :=
  (framed_exec i s).mono (fun _ => trivial) fun _ k => k.memory h

/-- Settles O47: every label keeps the form and the bounds with its frame, and the pin `rst` leaves the memories empty. -/
theorem memoryFormKept : Obligations.MemoryFormKept := fun _ _ h hs =>
  (ensures_step (fun _ _ h => h.congr rfl fun _ => rfl) (fun c _ => memoryOk_resetWith c) (fun _ _ h => h.respond _ _)
    (fun i _ h => h.exec i) h).next hs

end Sys2Proof.Machine

/-! ## Labels carried as bytes (20_memory R83; 30_encoding R112, R118). -/

namespace Sys2Proof

/-- The word of every label has the bits of its row (30_encoding R118, R119). -/
theorem encode_matchesRow : ∀ i : Instr, encode i &&& i.op.maskBits = i.op.matchBits
  | .init baud parity hd => Laws.EncodeMatchesRow.init baud parity hd
  | .write n => Laws.EncodeMatchesRow.write n
  | .isbusy => Laws.EncodeMatchesRow.isbusy
  | .chkfrm => Laws.EncodeMatchesRow.chkfrm
  | .setrxcb cb q => Laws.EncodeMatchesRow.setrxcb cb q
  | .rxpop => Laws.EncodeMatchesRow.rxpop
  | .posinit t => Laws.EncodeMatchesRow.posinit t
  | .initall => Laws.EncodeMatchesRow.initall
  | .setdir t sign => Laws.EncodeMatchesRow.setdir t sign
  | .setpos t target => Laws.EncodeMatchesRow.setpos t target
  | .getpos t => Laws.EncodeMatchesRow.getpos t
  | .ncstep => Laws.EncodeMatchesRow.ncstep
  | .icstep => Laws.EncodeMatchesRow.icstep
  | .eqdisp => Laws.EncodeMatchesRow.eqdisp
  | .dtxb => Laws.EncodeMatchesRow.dtxb
  | .ltc => Laws.EncodeMatchesRow.ltc
  | .ltxe => Laws.EncodeMatchesRow.ltxe
  | .lineb b => Laws.EncodeMatchesRow.lineb b
  | .drxb => Laws.EncodeMatchesRow.drxb
  | .lidle => Laws.EncodeMatchesRow.lidle
  | .cntup t => Laws.EncodeMatchesRow.cntup t
  | .cntdn t => Laws.EncodeMatchesRow.cntdn t
  | .irqtxc => Laws.EncodeMatchesRow.irqtxc
  | .irqidle => Laws.EncodeMatchesRow.irqidle
  | .irqrxne => Laws.EncodeMatchesRow.irqrxne
  | .irqore => Laws.EncodeMatchesRow.irqore
  | .irqovf t => Laws.EncodeMatchesRow.irqovf t

/-- The operands of `INIT`, read back from `arg` (30_encoding R112). -/
theorem init_argBits (baud : BitVec 29) (parity : Parity) (hd : Bool) :
    (Instr.init baud parity hd).argBits.extractLsb' 0 29 = baud ∧
    (Instr.init baud parity hd).argBits.extractLsb' 29 2 = encodeParity parity ∧
    (Instr.init baud parity hd).argBits.getLsbD 31 = hd :=
  ⟨(BitVec.extractLsb'_append_eq_of_add_le (by decide)).trans BitVec.extractLsb'_append_eq_right,
    (BitVec.extractLsb'_append_eq_of_add_le (by decide)).trans BitVec.extractLsb'_append_eq_left,
    BitVec.getLsbD_append.trans (by cases hd <;> rfl)⟩

/-- The operands of a label are read back from the fields `sel` and `arg` (30_encoding R112). -/
theorem assemble_fields (i : Instr) : assemble i.op i.selBits i.argBits = .ok i := by
  cases i with
  | init baud parity hd =>
    obtain ⟨hbaud, hparity, hhd⟩ := init_argBits baud parity hd
    simp only [Instr.op, assemble, hbaud, hparity, hhd, decodeParity_encodeParity]
  | setrxcb cb q => cases cb <;> cases q <;> rfl
  | setdir t sign => cases sign <;> rfl
  | lineb b => simp only [Instr.op, assemble, Instr.argBits, BitVec.extractLsb'_append_eq_right]
  | _ => rfl

theorem decode_encode (i : Instr) : decode (encode i) = .ok i := by
  rw [decode_assemble (by simp) (encode_matchesRow i), selField_encode, argField_encode, assemble_fields]

/-- The six bytes of a word, joined most significant first, are the word (20_memory R83). -/
theorem join_wordBytes (w : LabelWord) :
    w.extractLsb' 40 8 ++ (w.extractLsb' 32 8 ++ (w.extractLsb' 24 8 ++ (w.extractLsb' 16 8 ++
      (w.extractLsb' 8 8 ++ w.extractLsb' 0 8)))) = w := by
  apply BitVec.eq_of_getLsbD_eq
  intro j hj
  simp only [BitVec.getLsbD_append, BitVec.getLsbD_extractLsb', Nat.zero_add]
  split_ifs <;> rw [decide_eq_true (by omega), Bool.true_and] <;> exact congrArg w.getLsbD (by omega)

theorem decodeBytes_wordBytes {w : LabelWord} {i : Instr} (h : decode w = .ok i) (rest : List Byte) :
    decodeBytes (wordBytes w ++ rest) = .ok (i, rest) := by
  simp only [wordBytes, decodeBytes, List.cons_append, List.nil_append, join_wordBytes, h]

/-- Settles O4: the joined bytes are the word, and the word decodes to its label. -/
theorem bytesRoundTrip : Obligations.BytesRoundTrip := fun i => decodeBytes_wordBytes (decode_encode i)

end Sys2Proof

/-! ## Where a label stores (20_memory R96): the phases `W3`, `I4`, `N1` and `DRXB` by the indices they store to, and every other label
leaves the memories. -/

namespace Sys2Proof.Machine

variable {s t : State} {i : Instr}

/-- Every memory of `t` is that of `s`. -/
def SameMemories (s t : State) : Prop := ∀ sp, t.mem sp = s.mem sp

theorem SameMemories.refl (s : State) : SameMemories s s := fun _ => rfl

/-- Every byte of `t` is that of `s`, but where `At` allows a store. -/
def StoresAt (At : Space → Nat → Prop) (s t : State) : Prop :=
  ∀ sp a, t.readByte sp a = s.readByte sp a ∨ At sp a

theorem SameMemories.storesAt (h : SameMemories s t) (At : Space → Nat → Prop) : StoresAt At s t :=
  fun sp _ => .inl (by rw [State.readByte, h sp, State.readByte])

/-- What follows the stores in a label leaves the memories. -/
theorem StoresAt.congr {At : Space → Nat → Prop} {u : State} (h : StoresAt At s t) (hm : SameMemories t u) :
    StoresAt At s u := fun sp a => by rw [State.readByte, hm sp]; exact h sp a

theorem StoresAt.mono {At At' : Space → Nat → Prop} (h : StoresAt At s t) (hat : ∀ sp a, At sp a → At' sp a) :
    StoresAt At' s t := fun sp a => (h sp a).imp_right (hat sp a)

/-! ### The stores of the shared operations -/

theorem storesAt_memWrite {sp : Space} {a : Nat} {b : Byte} (h : memWrite s sp a b = .ok t) :
    StoresAt (fun sq x => sq = sp ∧ x = a) s t := by
  obtain ⟨-, rfl⟩ := memWrite_ok h
  intro sq x
  rw [readByte_setMem_write]
  split
  · rename_i hx; exact .inr hx
  · exact .inl rfl

theorem storesAt_memWriteBytes {sp : Space} {bs : List Byte} {a : Nat} (h : memWriteBytes s sp a bs = .ok t) :
    StoresAt (fun sq x => sq = sp ∧ a ≤ x ∧ x < a + bs.length) s t := by
  obtain ⟨-, -, -, hread, -⟩ := memWriteBytes_ok h
  intro sq x
  rw [hread]
  split
  · rename_i hx; exact .inr hx
  · exact .inl rfl

theorem storesAt_ringPush {b : Byte} (h : ringPush s b = .ok t) :
    StoresAt (fun sq x => sq = .ring ∧ x = s.rx.wr) s t := by
  intro sq x
  rw [readByte_ringPush h]
  split
  · rename_i hx; exact .inr hx
  · exact .inl rfl

/-- A frame is stored in the ring, from the write cursor on modulo `RINGCAP` (41_receive R187). -/
theorem storesAt_copyFrame {n k : Nat} (h : copyFrame s k n = .ok t) :
    StoresAt (fun sq x => sq = .ring ∧ ∃ j, j < n ∧ x = (s.rx.wr + j) % s.cfg.ringCap) s t := by
  obtain ⟨hframe, hcap, -⟩ := copyFrame_frame h
  intro sq x
  cases sq with
  | txb0 | txb1 | scr => rw [hframe]; exact .inl rfl
  | ring =>
    by_cases hx : ∃ j, j < n ∧ x = (s.rx.wr + j) % s.cfg.ringCap
    · exact .inr ⟨rfl, hx⟩
    · cases n with
      | zero => cases h; exact .inl rfl
      | succ n =>
        obtain ⟨-, -, hother⟩ := copyFrame_ok h (hcap n.succ_ne_zero)
        exact .inl (hother x fun j hj hxj => hx ⟨j, hj, hxj⟩)

/-! ### The labels that store -/

theorem storesAt_phaseW3 (s : State) :
    Ensures True (StoresAt (fun sp a => sp = s.nc.tgt.space ∧
      (s.buf s.nc.tgt).fill ≤ a ∧ a < (s.buf s.nc.tgt).fill + s.nc.chunk) s) (phaseW3 s) := by
  refine .ite (fun hl => ?_) fun _ => trivial
  cases hw : memWriteBytes s s.nc.tgt.space (s.buf s.nc.tgt).fill s.nc.chunkBytes with
  | error f => trivial
  | ok s1 =>
    have h1 := storesAt_memWriteBytes hw
    rw [hl] at h1
    exact h1.congr fun sp => mem_setBuf_keep s1 s.nc.tgt _ _ sp

theorem storesAt_phaseI4 (s : State) :
    Ensures True (StoresAt (fun sp a => sp = .ring ∧ ∃ k, k < s.ic.len ∧ a = (s.rx.wr + k) % s.cfg.ringCap) s)
      (phaseI4 s) := by
  unfold phaseI4
  cases hc : copyFrame s 0 s.ic.len with
  | error f => trivial
  | ok s1 => exact (storesAt_copyFrame hc).congr fun _ => rfl

theorem storesAt_phaseN1 (s : State) :
    Ensures True (StoresAt (fun sp a => sp = .ring ∧ a = s.rx.wr) s) (phaseN1 s) := by
  unfold phaseN1
  cases hp : ringPush s s.rx.rdr with
  | error f => trivial
  | ok s1 => exact (storesAt_ringPush hp).congr fun sp => by cases sp <;> rfl

theorem storesAt_execDrxb (s : State) : Ensures True (StoresAt (storesTo .drxb s) s) (execDrxb s) := by
  refine .guarded ((SameMemories.refl s).storesAt _) fun hr => ?_
  cases hw : memWrite s .scr (s.cfg.scratchCap - s.rx.drx.rem) s.rx.rdr with
  | error f => trivial
  | ok s1 => exact ((storesAt_memWrite hw).mono fun _ _ hat => ⟨hr, hat⟩).congr fun sp => by cases sp <;> rfl

/-! ### The labels that store nothing -/

/-- `t` has the storage of the Buffers, the scratch buffer and the ring of `s`: what a label that stores nothing ensures. -/
abbrev KeepsMemories (s : State) (o : Out State) : Prop := Ensures True (SameMemories s) o

/-- Setting a Buffer's cursor and flag stores nothing. -/
theorem sameMemories_setBuf (s : State) (i : BufId) (n : Nat) (b : Bool) :
    SameMemories s (s.setBuf i { s.buf i with fill := n, busy := b }) := mem_setBuf_keep s i n b

theorem keepsMemories_writePhase (hpc : s.nc.pc ≠ .w3) : KeepsMemories s (writePhase s) := by
  unfold writePhase
  cases h : s.nc.pc with
  | w0 | b0 | w4 => exact .ite (fun _ _ => rfl) fun _ _ => rfl
  | ws => exact .ite (fun _ => sameMemories_setBuf { s with nc := { s.nc with tgt := s.chosen } } s.chosen _ _) fun _ _ => rfl
  | w1 | w5 => exact sameMemories_setBuf s s.nc.tgt _ _
  | w3 => exact absurd h hpc
  | b2 =>
    simp only [phaseB2]
    cases s.nc.data[s.nc.ip]? with
    | none => trivial
    | some b => exact fun _ => rfl
  | w2 | b1 | s1 | s2 | g1 | g2 => exact fun _ => rfl

/-- The phases of `SETPOS` and `GETPOS` write the tracker and the sequencer. -/
theorem keepsMemories_positionPhase (hop : s.nc.op ≠ .write) : KeepsMemories s (ncPhase s) := by
  unfold ncPhase
  cases h : s.nc.op with
  | none => exact .refl s
  | write => exact absurd h hop
  | setpos =>
    cases s.nc.pc with
    | s1 | s2 =>
      simp only [phaseS1, phaseS2]
      cases s.tracker? s.nc.t <;> exact fun _ => rfl
    | _ => exact .refl s
  | getpos =>
    cases s.nc.pc with
    | g1 | g2 =>
      simp only [phaseG1, phaseG2]
      cases s.tracker? s.nc.t <;> exact fun _ => rfl
    | _ => exact .refl s

theorem keepsMemories_icPhase (h4 : s.ic.pc ≠ .i4) (h1 : s.ic.pc ≠ .n1) : KeepsMemories s (icPhase s) := by
  unfold icPhase
  cases h : s.ic.pc with
  | i4 => exact absurd h h4
  | n1 => exact absurd h h1
  | t2 =>
    simp only [phaseT2]
    cases s.tx.dtx.src <;> exact fun _ => rfl
  | t3 => exact sameMemories_setBuf s s.ic.done _ _
  | t4 => exact .ite (fun _ _ => rfl) fun _ _ => rfl
  | t6 =>
    simp only [phaseT6]
    cases s.tx.hd <;> exact fun _ => rfl
  | i7 =>
    simp only [phaseI7]
    cases s.rx.cbReg <;> cases s.rx.qAtt <;> exact fun _ => rfl
  | o1 | o2 =>
    simp only [phaseO1, phaseO2]
    cases s.tracker? s.ic.t <;> exact fun _ => rfl
  | t1 | t5 | i1 | i2 | i3 | i5 | i6 | e1 => exact fun _ => rfl

theorem keepsMemories_execRxpop (s : State) : KeepsMemories s (execRxpop s) := by
  refine .whenReady (.refl s) fun _ => .needsUart (.ite (fun _ _ => rfl) fun _ => ?_)
  cases memRead s .ring s.rx.rd with
  | error f => trivial
  | ok b => exact fun _ => rfl

theorem keepsMemories_execDtxb (s : State) : KeepsMemories s (execDtxb s) := by
  unfold execDtxb
  cases s.tx.dtx.src with
  | none => exact .refl s
  | some i =>
    refine .guarded (.refl s) fun _ => ?_
    cases memRead s i.space (s.tx.dtx.len - s.tx.dtx.rem) with
    | error f => trivial
    | ok b => exact fun _ => rfl

/-- Every label but the two sequencer steps and `DRXB` stores nothing. -/
theorem keepsMemories_exec (hn : i ≠ .ncstep) (hi : i ≠ .icstep) (hd : i ≠ .drxb) : KeepsMemories s (exec i s) := by
  cases i with
  | init baud parity hd => exact .whenReady (.refl s) fun _ => .ite (fun _ => trivial) fun _ _ => rfl
  | write n => exact .whenReady (.refl s) fun _ => .needsUart (.guarded (.refl s) fun _ _ => rfl)
  | isbusy => exact .whenReady (.refl s) fun _ => .needsUart fun _ => rfl
  | chkfrm => exact .whenReady (.refl s) fun _ => .needsUart (.ite (fun _ _ => rfl) fun _ _ => rfl)
  | setrxcb cb q => exact .whenReady (.refl s) fun _ _ => rfl
  | rxpop => exact keepsMemories_execRxpop s
  | posinit t =>
    refine .trackerCommand (.refl s) (fun _ _ => rfl) fun _ _ => ?_
    obtain ⟨l, hl, -⟩ := markInited_eq s t.toNat
    rw [hl]
    exact fun _ => rfl
  | initall =>
    refine .whenReady (.refl s) fun _ => .ite (fun _ _ => rfl) fun _ => ?_
    obtain ⟨l, hl, -⟩ := foldl_markInited_eq (s.reg.slots.take s.reg.n) s
    rw [hl]
    exact fun _ => rfl
  | setdir t sign => exact .trackerCommand (.refl s) (fun _ _ => rfl) fun _ _ _ => rfl
  | setpos t target | getpos t =>
    exact .trackerCommand (.refl s) (fun _ _ => rfl) fun _ _ => .needsInited fun _ => rfl
  | ncstep => exact absurd rfl hn
  | icstep => exact absurd rfl hi
  | drxb => exact absurd rfl hd
  | dtxb => exact keepsMemories_execDtxb s
  | lineb b => exact .guarded (.refl s) fun _ => .ite (fun _ _ => rfl) fun _ _ => rfl
  | cntup t | cntdn t | irqovf t => exact .trackerEvent fun _ => .guarded (.refl s) fun _ _ => rfl
  | eqdisp | ltc | ltxe | lidle | irqtxc | irqidle | irqrxne | irqore => exact .guarded (.refl s) fun _ _ => rfl

/-! ### Every label -/

theorem KeepsMemories.storesAt {o : Out State} (h : KeepsMemories s o) (At : Space → Nat → Prop) :
    Ensures True (StoresAt At s) o := h.mono id fun _ hm => hm.storesAt At

theorem storesAt_execNcstep (s : State) : Ensures True (StoresAt (storesTo .ncstep s) s) (execNcstep s) := by
  refine .guarded ((SameMemories.refl s).storesAt _) fun hr => ?_
  by_cases hop : s.nc.op = .write
  · simp only [ncPhase, hop]
    by_cases hpc : s.nc.pc = .w3
    · simp only [writePhase, hpc]
      exact (storesAt_phaseW3 s).mono id fun _ h => h.mono fun _ _ hat => ⟨hr, hpc, hat⟩
    · exact (keepsMemories_writePhase hpc).storesAt _
  · exact (keepsMemories_positionPhase hop).storesAt _

theorem storesAt_execIcstep (s : State) : Ensures True (StoresAt (storesTo .icstep s) s) (execIcstep s) := by
  refine .guarded ((SameMemories.refl s).storesAt _) fun hr => ?_
  by_cases h4 : s.ic.pc = .i4
  · simp only [icPhase, h4]
    exact (storesAt_phaseI4 s).mono id fun _ h => h.mono fun _ _ ⟨hsp, hk⟩ => ⟨hr, hsp, .inl ⟨h4, hk⟩⟩
  · by_cases h1 : s.ic.pc = .n1
    · simp only [icPhase, h1]
      exact (storesAt_phaseN1 s).mono id fun _ h => h.mono fun _ _ ⟨hsp, ha⟩ => ⟨hr, hsp, .inr ⟨h1, ha⟩⟩
    · exact (keepsMemories_icPhase h4 h1).storesAt _

theorem storesAt_exec (i : Instr) (s : State) : Ensures True (StoresAt (storesTo i s) s) (exec i s) := by
  by_cases hn : i = .ncstep
  · subst hn; exact storesAt_execNcstep s
  by_cases hi : i = .icstep
  · subst hi; exact storesAt_execIcstep s
  by_cases hd : i = .drxb
  · subst hd; exact storesAt_execDrxb s
  exact (keepsMemories_exec hn hi hd).storesAt _

/-- Settles O45: `W3`, `I4`, `N1` and `DRXB` by the stores of the operations they call, every other label by the memories it keeps. -/
theorem storesOnlyWhereListed : Obligations.StoresOnlyWhereListed := fun i s _ h => (storesAt_exec i s).next h

end Sys2Proof.Machine

/-! ## The decoder against the opcode map (30_encoding R112, R118 to R120): which words it reads, and that a word it reads is the word of
its label. -/

namespace Sys2Proof

/-! ### Words by their fields -/

theorem mkWord_inj {a a' b b' : BitVec 8} {c c' : BitVec 32} :
    mkWord a b c = mkWord a' b' c' ↔ a = a' ∧ b = b' ∧ c = c' := by
  refine ⟨fun h => ⟨?_, ?_, ?_⟩, fun ⟨ha, hb, hc⟩ => by rw [ha, hb, hc]⟩
  · simpa using congrArg opField h
  · simpa using congrArg selField h
  · simpa using congrArg argField h

/-- The mask of every row keeps the whole of `op` (30_encoding R118). -/
theorem opField_maskBits (o : Op) : opField o.maskBits = BitVec.allOnes 8 := by cases o <;> rfl

/-- A word matches a row when its `op` is the row's and the must-be-zero bits of `sel` and `arg` are 0 (30_encoding R118, R119). -/
theorem matchesRow_iff (w : LabelWord) (o : Op) : w &&& o.maskBits = o.matchBits ↔
    opField w = o.code ∧ selField w &&& selField o.maskBits = 0 ∧ argField w &&& argField o.maskBits = 0 := by
  calc w &&& o.maskBits = o.matchBits
    _ ↔ mkWord (opField w) (selField w) (argField w) &&&
          mkWord (opField o.maskBits) (selField o.maskBits) (argField o.maskBits) = mkWord o.code 0 0 := by
        rw [mkWord_fields, mkWord_fields, matchBits_eq]
    _ ↔ _ := by rw [mkWord_and, mkWord_inj, opField_maskBits, BitVec.and_allOnes]

/-- What the decoder reads, from the row the word matches (30_encoding R118). -/
theorem decode_ok_iff {w : LabelWord} {i : Instr} : decode w = .ok i ↔
    ∃ o : Op, w &&& o.maskBits = o.matchBits ∧ assemble o (selField w) (argField w) = .ok i := by
  constructor
  · intro h
    cases ho : opOfCode? (opField w) with
    | none => rw [decode_unassigned ho] at h; cases h
    | some o =>
      by_cases hm : w &&& o.maskBits = o.matchBits
      · exact ⟨o, hm, (decode_assemble ho hm).symm.trans h⟩
      · rw [decode_mustBeZero ho hm] at h; cases h
  · rintro ⟨o, hm, ha⟩
    obtain ⟨hop, -, -⟩ := (matchesRow_iff w o).mp hm
    rw [decode_assemble (by rw [hop, opOfCode_code]) hm, ha]

/-! ### What the operand fields are read as -/

theorem assemble_init_iff {sel : BitVec 8} {arg : BitVec 32} {i : Instr} : assemble .init sel arg = .ok i ↔
    ∃ p, decodeParity (arg.extractLsb' 29 2) = some p ∧ .init (arg.extractLsb' 0 29) p (arg.getLsbD 31) = i := by
  cases h : decodeParity (arg.extractLsb' 29 2) <;> simp [assemble, h]

theorem assemble_setdir_iff {sel : BitVec 8} {arg : BitVec 32} {i : Instr} : assemble .setdir sel arg = .ok i ↔
    ∃ d, decodeSign arg = some d ∧ .setdir sel d = i := by
  cases h : decodeSign arg <;> simp [assemble, h]

/-- Which operand fields are legal (30_encoding R120 (c), (d)). -/
theorem exists_assemble_iff (o : Op) (sel : BitVec 8) (arg : BitVec 32) : (∃ i, assemble o sel arg = .ok i) ↔
    (o = .init → arg.extractLsb' 29 2 ≠ 3) ∧ (o = .setdir → arg = 0x00000001 ∨ arg = 0xFFFFFFFF) := by
  cases o with
  | init => simp [assemble_init_iff, ← Option.isSome_iff_exists, decodeParity_isSome]
  | setdir => simp [assemble_setdir_iff, ← Option.isSome_iff_exists, decodeSign_isSome]
  | _ => exact iff_of_true ⟨_, rfl⟩ ⟨nofun, nofun⟩

/-- Operand fields are never the reason that an `op` is unassigned. -/
theorem assemble_ne_unassignedOp (o : Op) (sel : BitVec 8) (arg : BitVec 32) :
    assemble o sel arg ≠ .error .unassignedOp := by
  cases o with
  | init => cases h : decodeParity (arg.extractLsb' 29 2) <;> simp [assemble, h]
  | setdir => cases h : decodeSign arg <;> simp [assemble, h]
  | _ => nofun

/-- The name `unassignedOp` is given to the words whose `op` no row has, and to no other (30_encoding R120 (a)). -/
theorem decode_unassigned_iff (w : LabelWord) : decode w = .error .unassignedOp ↔ opOfCode? (opField w) = none := by
  refine ⟨fun h => ?_, decode_unassigned⟩
  cases ho : opOfCode? (opField w) with
  | none => rfl
  | some o =>
    by_cases hm : w &&& o.maskBits = o.matchBits
    · exact absurd ((decode_assemble ho hm).symm.trans h) (assemble_ne_unassignedOp o _ _)
    · rw [decode_mustBeZero ho hm] at h; cases h

/-! ### The fields of a label that was read -/

theorem op_of_assemble {o : Op} {sel : BitVec 8} {arg : BitVec 32} {i : Instr} (h : assemble o sel arg = .ok i) :
    i.op = o := by
  cases o with
  | init => obtain ⟨p, -, rfl⟩ := assemble_init_iff.mp h; rfl
  | setdir => obtain ⟨d, -, rfl⟩ := assemble_setdir_iff.mp h; rfl
  | _ => cases h; rfl

/-- A field whose every bit must be zero. -/
theorem zero_of_and_allOnes {n : Nat} {x : BitVec n} (h : x &&& BitVec.allOnes n = 0) : 0 = x :=
  (BitVec.and_allOnes.symm.trans h).symm

/-- A field whose bits from `n` on must be zero is the extension of its `n` low bits. -/
theorem zero_append_low {m n : Nat} {x : BitVec (m + n)} (h : x &&& (BitVec.allOnes m ++ 0#n) = 0) :
    (0 : BitVec m) ++ x.extractLsb' 0 n = x := by
  apply BitVec.eq_of_getLsbD_eq
  intro j hj
  have hbit : (x &&& (BitVec.allOnes m ++ 0#n)).getLsbD j = false := by rw [h]; exact BitVec.getLsbD_zero
  rw [BitVec.getLsbD_append]
  by_cases hn : j < n
  · simp [hn]
  · have hm : j - n < m := by omega
    simpa [BitVec.getLsbD_append, hn, hm] using hbit.symm

theorem selBits_of_assemble {o : Op} {sel : BitVec 8} {arg : BitVec 32} {i : Instr} (h : assemble o sel arg = .ok i)
    (hs : sel &&& selField o.maskBits = 0) : i.selBits = sel := by
  cases o with
  | init => obtain ⟨p, -, rfl⟩ := assemble_init_iff.mp h; exact zero_of_and_allOnes hs
  | setdir => obtain ⟨d, -, rfl⟩ := assemble_setdir_iff.mp h; rfl
  | posinit | setpos | getpos | cntup | cntdn | irqovf => cases h; rfl
  | _ => cases h; exact zero_of_and_allOnes hs

theorem encodeParity_of_decode {b : BitVec 2} {p : Parity} (h : decodeParity b = some p) : encodeParity p = b := by
  cases p <;> revert b <;> decide

theorem encodeSign_of_decode {a : BitVec 32} {d : Dir} (h : decodeSign a = some d) : encodeSign d = a := by
  unfold decodeSign at h
  split at h
  · cases h; simp_all [encodeSign]
  · split at h
    · cases h; simp_all [encodeSign]
    · cases h

/-- One bit as a field. -/
theorem ofBool_getLsbD {n : Nat} (x : BitVec n) (k : Nat) : BitVec.ofBool (x.getLsbD k) = x.extractLsb' k 1 := by
  rw [BitVec.getLsbD_eq_extractLsb']
  generalize x.extractLsb' k 1 = b
  revert b; decide

/-- `arg` of `INIT` is made of its three operands (30_encoding R112). -/
theorem init_arg_fields (arg : BitVec 32) :
    BitVec.ofBool (arg.getLsbD 31) ++ (arg.extractLsb' 29 2 ++ arg.extractLsb' 0 29) = arg := by
  rw [ofBool_getLsbD, BitVec.extractLsb'_append_extractLsb'_eq_extractLsb' (show 29 = 0 + 29 from rfl),
    BitVec.extractLsb'_append_extractLsb'_eq_extractLsb' (show 31 = 0 + (2 + 29) from rfl)]
  exact BitVec.extractLsb'_eq_self

/-- The low bits of `arg` of `SETRXCB` are made of its two operands (30_encoding R112). -/
theorem setrxcb_arg_fields (arg : BitVec 32) :
    BitVec.ofBool (arg.getLsbD 1) ++ BitVec.ofBool (arg.getLsbD 0) = arg.extractLsb' 0 2 := by
  rw [ofBool_getLsbD, ofBool_getLsbD, BitVec.extractLsb'_append_extractLsb'_eq_extractLsb' (show 1 = 0 + 1 from rfl)]

theorem argBits_of_assemble {o : Op} {sel : BitVec 8} {arg : BitVec 32} {i : Instr} (h : assemble o sel arg = .ok i)
    (ha : arg &&& argField o.maskBits = 0) : i.argBits = arg := by
  cases o with
  | init =>
    obtain ⟨p, hp, rfl⟩ := assemble_init_iff.mp h
    simp only [Instr.argBits, encodeParity_of_decode hp, init_arg_fields]
  | setdir => obtain ⟨d, hd, rfl⟩ := assemble_setdir_iff.mp h; exact encodeSign_of_decode hd
  | write | setpos => cases h; rfl
  | setrxcb =>
    cases h
    simp only [Instr.argBits, setrxcb_arg_fields]
    exact zero_append_low ha
  | lineb => cases h; exact zero_append_low ha
  | _ => cases h; exact zero_of_and_allOnes ha

/-! ### The statements -/

/-- Settles O1: the word of a label matches its row, and its operand fields are read back. -/
theorem decodeOfEncode : Obligations.DecodeOfEncode := decode_encode

/-- Settles O2: the label read has the word's three fields, because the bits its operands do not hold are 0. -/
theorem encodeOfDecode : Obligations.EncodeOfDecode := by
  intro w i h
  obtain ⟨o, hm, ha⟩ := decode_ok_iff.mp h
  obtain ⟨hop, hsel, harg⟩ := (matchesRow_iff w o).mp hm
  rw [encode, op_of_assemble ha, selBits_of_assemble ha hsel, argBits_of_assemble ha harg, ← hop, mkWord_fields]

/-- Settles O3: a word is read when it matches a row, and its operand fields are then legal. -/
theorem spelledWords : Obligations.SpelledWords := by
  intro w
  simp only [decode_ok_iff]
  rw [exists_comm]
  simp only [exists_and_left, exists_assemble_iff]

/-- Settles O5. -/
theorem tableWordsDecode : Obligations.TableWordsDecode := by
  unfold Obligations.TableWordsDecode
  decide

end Sys2Proof

/-! ## Words and labels that are answered `ILLEGAL`, not taken or refused (30_encoding R111, R120; 44_init_config R257). -/

namespace Sys2Proof.Machine

variable {s : State} {i : Instr}

theorem cmdReady_of_not (h : ¬ CommandPortReady s) : s.cmdReady = false :=
  Bool.eq_false_iff.mpr (mt (cmdReady_iff s).mp h)

/-! ### Illegal words -/

/-- A word at the port that spells no label (30_encoding R120). -/
theorem step_illegal {w : LabelWord} {es : List PortEvent} {x : Illegal} (hc : s.cfg.ok = true)
    (he : s.inp.events = .label w :: es) (hd : decode w = .error x) :
    step s = illegalWord w x { s with inp := { s.inp with events := es } } := by
  simp only [step, (configRefusal_none_iff _).mpr hc, fetchEvent, he, hd]

theorem illegalWord_of_answered {w : LabelWord} {x : Illegal} (h : isHostClass w = true ∨ x = .unassignedOp) :
    illegalWord w x s = whenReady s (answerIllegal s) := if_pos (by simpa using h)

theorem illegalWord_of_not_answered {w : LabelWord} {x : Illegal} (h : ¬ (isHostClass w = true ∨ x = .unassignedOp)) :
    illegalWord w x s = .refused .notALabel := if_neg (by simpa using h)

/-- Settles O7: the word's class and whether its `op` is assigned decide, then `cmd_ready`. -/
theorem illegalWordAnswered : Obligations.IllegalWordAnswered := by
  intro s w es x hc he hd
  have hx : x = .unassignedOp ↔ opOfCode? (opField w) = none := by
    rw [← decode_unassigned_iff, hd, Except.error.injEq]
  rw [step_illegal hc he hd, ← hx]
  exact ⟨fun ha hr => (illegalWord_of_answered ha).trans (whenReady_of ((cmdReady_iff _).mpr hr)),
    fun ha hr => (illegalWord_of_answered ha).trans (whenReady_of_not (cmdReady_of_not hr)), illegalWord_of_not_answered⟩

/-! ### Host commands and trackers that are not there -/

theorem tracker?_of_ntrk_le {t : Nat} (h : s.cfg.ntrk ≤ t) : s.tracker? t = none := if_neg (by omega)

/-- A position host command that is ready and names no tracker (30_encoding R120 (e)). -/
theorem exec_host_of_no_tracker {t : BitVec 8} (hi : i.isHost = true) (ht : i.tracker? = some t) (hr : s.cmdReady = true)
    (hn : s.tracker? t.toNat = none) : exec i s = answerIllegal s := by
  cases i with
  | posinit | setdir | setpos | getpos => cases ht; exact trackerCommand_of_none hr hn
  | cntup | cntdn | irqovf => cases hi
  | _ => cases ht

/-- Settles O8. -/
theorem trackerOutOfRange : Obligations.TrackerOutOfRange := by
  intro i t s ht hk
  have hn : s.tracker? t.toNat = none := tracker?_of_ntrk_le hk
  exact ⟨fun hi hr => exec_host_of_no_tracker hi ht ((cmdReady_iff s).mpr hr) hn,
    fun hi hr => exec_host_of_not_ready hi (cmdReady_of_not hr), fun hi => exec_of_no_tracker hi ht hn⟩

/-- A serial command before `INIT` (44_init_config R257; 93 U5). -/
theorem serial_before_init {o : Out State} (hr : s.cmdReady = true) (hu : s.uartInit = false) :
    whenReady s (needsUart s o) = .refused .commandBeforeInit := by
  rw [whenReady_of hr, needsUart_of_not hu]

/-- A position command before its tracker's initialisation (44_init_config R257; 93 U5). -/
theorem position_before_init {t : BitVec 8} {f : Tracker → Out State} {p : Tracker} (hr : s.cmdReady = true)
    (hp : s.tracker? t.toNat = some p) (hi : p.inited = false) :
    trackerCommand s t (fun p => needsInited p (f p)) = .refused .commandBeforeInit := by
  rw [trackerCommand_of_some hr hp, needsInited_of_not hi]

/-- Settles O13: each command by the guards it stands behind. -/
theorem hostCommandGuards : Obligations.HostCommandGuards := by
  refine ⟨fun i s hi hr => exec_host_of_not_ready hi (cmdReady_of_not hr), fun n s hr hu => ?_,
    fun t v s p hr hp hi => ?_⟩
  · have hr' := (cmdReady_iff s).mpr hr
    exact ⟨serial_before_init hr' hu, serial_before_init hr' hu, serial_before_init hr' hu, serial_before_init hr' hu⟩
  · have hr' := (cmdReady_iff s).mpr hr
    exact ⟨position_before_init hr' hp hi, position_before_init hr' hp hi⟩

end Sys2Proof.Machine

/-! ## TXARB phase by phase (40_transmit R141 to R148, R156, R160 to R167; 42_frame_signal R210). -/

namespace Sys2Proof.Machine

variable {s t : State} {i : BufId}

/-! ### Host commands of the serial port -/

/-- A serial command that is ready and initialised is its effect (44_init_config R257). -/
theorem serial_ready {o : Out State} (hr : CommandPortReady s) (hu : s.uartInit = true) :
    whenReady s (needsUart s o) = o := by
  rw [whenReady_of ((cmdReady_iff s).mpr hr), needsUart_of hu]

/-- Settles O15: the guards hold, and the mode picks the first phase. -/
theorem writeAccepted : Obligations.WriteAccepted := by
  intro n s hr hu hn
  refine (serial_ready hr hu).trans ((if_pos (decide_eq_true hn)).trans ?_)
  cases s.cfg.txMode <;> rfl

/-- Settles O16: by the transmit mode, and by the Frame Signal. -/
theorem booleanCommands : Obligations.BooleanCommands := by
  intro s hr hu
  refine ⟨(serial_ready hr hu).trans ?_, (serial_ready hr hu).trans ?_⟩
  · cases s.cfg.txMode with
    | irq => rfl
    | dma => cases s.tx.inFlight <;> rfl
  · cases hf : s.rx.frame with
    | true => rfl
    | false =>
      have hs : { s with rx := { s.rx with frame := false } } = s := by rw [← hf]
      rw [hs]
      rfl

/-! ### A sequencer step at a phase (30_encoding R125, R126) -/

/-- Only `WS` and `B1` can be held in normal context. -/
theorem ncHeld_of_ne (hws : s.nc.pc ≠ .ws) (hb1 : s.nc.pc ≠ .b1) : s.ncHeld = false := by
  unfold State.ncHeld
  split <;> simp_all

theorem NormalAt.op_eq {op : NcOp} {p : NcPhase} (h : NormalAt s op p) : s.nc.op = op := h.2.2.1

theorem NormalAt.pc_eq {op : NcOp} {p : NcPhase} (h : NormalAt s op p) : s.nc.pc = p := h.2.2.2

theorem HandlerAt.pc_eq {h : Handler} {p : IcPhase} (hat : HandlerAt s h p) : s.ic.pc = p := hat.2.2

theorem exec_ncstep_of {op : NcOp} {p : NcPhase} (h : NormalAt s op p) (hp : op.hasPhase p = true)
    (hh : s.ncHeld = false) : exec .ncstep s = ncPhase s := by
  obtain ⟨hi, hf, rfl, rfl⟩ := h
  exact if_pos ((ncstepReady_iff s).mpr ⟨hi, hf, hp, hh⟩)

/-- A phase of `WRITE` that is never held. -/
theorem exec_ncstep_write {p : NcPhase} (h : NormalAt s .write p) (hp : NcOp.write.hasPhase p = true)
    (hws : p ≠ .ws) (hb1 : p ≠ .b1) : exec .ncstep s = writePhase s := by
  have he := exec_ncstep_of h hp (ncHeld_of_ne (h.pc_eq ▸ hws) (h.pc_eq ▸ hb1))
  rw [he, ncPhase, h.op_eq]

/-- Only `T6` can be held in the completion handler. -/
theorem icHeld_of_ne (h : s.ic.pc ≠ .t6) : s.icHeld = false := by
  unfold State.icHeld
  split <;> simp_all

theorem exec_icstep_of {h : Handler} {p : IcPhase} (hat : HandlerAt s h p) (hp : h.hasPhase p = true)
    (hh : s.icHeld = false) : exec .icstep s = icPhase s := by
  obtain ⟨hf, rfl, rfl⟩ := hat
  exact if_pos ((icstepReady_iff s).mpr ⟨hf, hp, hh⟩)

/-- A phase of the completion handler that is never held. -/
theorem exec_icstep_txc {p : IcPhase} (hat : HandlerAt s .txc p) (hp : Handler.txc.hasPhase p = true) (h6 : p ≠ .t6) :
    exec .icstep s = icPhase s := exec_icstep_of hat hp (icHeld_of_ne (hat.pc_eq ▸ h6))

/-! ### The producer (40_transmit R142 to R148) -/

theorem setNcPc_setBuf (s : State) (i : BufId) (f : TxBuf) (p : NcPhase) :
    setNcPc (s.setBuf i f) p = { s.setBuf i f with nc := { s.nc with pc := p } } := by cases i <;> rfl

theorem setIcPc_setBuf (s : State) (i : BufId) (f : TxBuf) (p : IcPhase) :
    setIcPc (s.setBuf i f) p = { s.setBuf i f with ic := { s.ic with pc := p } } := by cases i <;> rfl

/-- Settles O22. -/
theorem producerPhases : Obligations.ProducerPhases := by
  intro s
  refine ⟨fun h => ?w0, fun h => ?b0, fun h => ?w1, fun h => ?w2, fun h => ?w5⟩
  all_goals rw [exec_ncstep_write h rfl nofun nofun, writePhase, h.pc_eq]
  case w0 | b0 => exact (apply_ite Host.Outcome.next _ _ _).symm
  case w2 => rfl
  case w1 | w5 => exact congrArg _ (setNcPc_setBuf s _ _ _)

theorem selectable_iff (s : State) (i : BufId) :
    s.selectable i = true ↔ s.tx.dtx.src ≠ some i ∧ (s.buf i).fill < s.cfg.txCap := by
  simp [State.selectable, State.activeChannel]

/-- Buffer 0 goes first (40_transmit R143). -/
theorem chosen_eq (hi : s.selectable i = true) (h1 : i = .b1 → ¬ s.selectable .b0 = true) : s.chosen = i := by
  cases i with
  | b0 => exact if_pos hi
  | b1 => exact if_neg (h1 rfl)

/-- `WS` is held exactly while no Buffer is selectable (30_encoding R125). -/
theorem ncHeld_ws (hpc : s.nc.pc = .ws) : s.ncHeld = true ↔ ∀ i, ¬ s.selectable i = true := by
  simp only [State.ncHeld, hpc, Bool.not_eq_true', Bool.or_eq_false_iff, Bool.not_eq_true]
  exact ⟨fun ⟨h0, h1⟩ i => by cases i <;> assumption, fun h => ⟨h .b0, h .b1⟩⟩

/-- Settles O23: a selectable Buffer lifts the hold, and the tie goes to Buffer 0. -/
theorem selectionPhase : Obligations.SelectionPhase := by
  intro s h
  have hpc := h.pc_eq
  simp only [← selectable_iff]
  refine ⟨fun i hsrc hfill hfirst => ?_, fun hnone => ite_notTaken (Bool.eq_false_iff.mpr fun hr => ?_)⟩
  · have hsel := (selectable_iff s i).mpr ⟨hsrc, hfill⟩
    have hheld : s.ncHeld = false := Bool.eq_false_iff.mpr fun hh => (ncHeld_ws hpc).mp hh i hsel
    have he : exec .ncstep s = phaseWS s := by rw [exec_ncstep_of h rfl hheld, ncPhase, h.op_eq, writePhase, hpc]
    rw [he, phaseWS, chosen_eq hsel hfirst]
    cases s.cfg.fuseSelectBusy with
    | false => rfl
    | true => cases i <;> rfl
  · obtain ⟨-, -, -, hheld⟩ := (ncstepReady_iff s).mp hr
    exact Bool.eq_false_iff.mp hheld ((ncHeld_ws hpc).mpr hnone)

@[simp] theorem capacityOf_space (c : Cfg) (i : BufId) : capacityOf c i.space = c.txCap := by cases i <;> rfl

theorem mem_space (s : State) (i : BufId) : s.mem i.space = (s.buf i).mem := (buf_mem_eq s i).symm

/-- Bytes written to one space change that space's memory alone. -/
theorem memWriteBytes_eq_setMem {sp : Space} {bs : List Byte} :
    ∀ {s t : State} {a : Nat}, memWriteBytes s sp a bs = .ok t → t = s.setMem sp (t.mem sp) := by
  induction bs with
  | nil => intro s t a h; cases h; cases sp <;> rfl
  | cons b bs ih =>
    intro s t a h
    simp only [memWriteBytes] at h
    split at h
    · rename_i s1 h1
      obtain ⟨-, rfl⟩ := memWrite_ok h1
      rw [ih h]
      cases sp <;> rfl
    · cases h

/-- The state phase `W3` leaves: the target Buffer with storage `m` and its cursor up by the chunk, the input cursors moved on
(40_transmit R146). -/
def chunkCopied (s : State) (m : Memory) : State :=
  { s.setBuf s.nc.tgt { s.buf s.nc.tgt with mem := m, fill := (s.buf s.nc.tgt).fill + s.nc.chunk } with
    nc := { s.nc with ip := s.nc.ip + s.nc.chunk, rem := s.nc.rem - s.nc.chunk, pc := .w4 } }

@[simp] theorem buf_chunkCopied (s : State) (m : Memory) : (chunkCopied s m).buf s.nc.tgt =
    { s.buf s.nc.tgt with mem := m, fill := (s.buf s.nc.tgt).fill + s.nc.chunk } := buf_setBuf_same s s.nc.tgt _

theorem mem_chunkCopied (s : State) (m : Memory) (sp : Space) :
    (chunkCopied s m).mem sp = (s.setMem s.nc.tgt.space m).mem sp := by
  unfold chunkCopied
  cases s.nc.tgt <;> cases sp <;> rfl

theorem chunkBytes_getElem? (n : Nc) {k : Nat} (hk : k < n.chunk) : n.chunkBytes[k]? = n.data[n.ip + k]? := by
  simp [Nc.chunkBytes, hk]

/-- Phase `W3` with the chunk in range stores the chunk at the target's fill cursor (40_transmit R146). -/
theorem exec_ncstep_w3 (h : NormalAt s .write .w3) (hfit : (s.buf s.nc.tgt).fill + s.nc.chunk ≤ s.cfg.txCap)
    (hin : s.nc.ip + s.nc.chunk ≤ s.nc.data.length) :
    ∃ m : Memory, exec .ncstep s = .next (chunkCopied s m) ∧
      (∀ k, k < s.nc.chunk → m.read ((s.buf s.nc.tgt).fill + k) = s.nc.data[s.nc.ip + k]?) ∧
      ∀ a, ¬ ((s.buf s.nc.tgt).fill ≤ a ∧ a < (s.buf s.nc.tgt).fill + s.nc.chunk) →
        m.read a = (s.buf s.nc.tgt).mem.read a := by
  have hlen : s.nc.chunkBytes.length = s.nc.chunk := by
    simp only [Nc.chunkBytes, List.length_take, List.length_drop]; omega
  obtain ⟨t, ht⟩ := memWriteBytes_of (s := s) (sp := s.nc.tgt.space) (a := (s.buf s.nc.tgt).fill)
    (bs := s.nc.chunkBytes) (by rw [hlen, capacityOf_space]; exact hfit)
  obtain ⟨-, -, -, hread, -⟩ := memWriteBytes_ok ht
  have hm := fun a => hread s.nc.tgt.space a
  simp only [State.readByte, mem_space, hlen, true_and] at hm
  refine ⟨(t.buf s.nc.tgt).mem, ?_, fun k hk => ?_, fun a ha => ?_⟩
  · have hs := memWriteBytes_eq_setMem ht
    rw [mem_space] at hs
    rw [exec_ncstep_write h rfl nofun nofun, writePhase, h.pc_eq]
    simp only [phaseW3, if_pos hlen, ht, chunkCopied]
    generalize (t.buf s.nc.tgt).mem = m at hs ⊢
    subst hs
    cases s.nc.tgt <;> rfl
  · rw [hm, if_pos (by omega), Nat.add_sub_cancel_left, chunkBytes_getElem? _ hk]
  · rw [hm, if_neg ha]

/-- Settles O24. -/
theorem copyPhase : Obligations.CopyPhase := by
  intro s h hfit hin
  obtain ⟨m, he, hnew, hold⟩ := exec_ncstep_w3 h hfit hin
  refine ⟨chunkCopied s m, he, fun k hk => ?_, fun sp a ha => ?_, ?_, ?_, fun j hj => ?_, rfl, ?_, ?_⟩
  · simpa [State.readByte, mem_space] using hnew k hk
  · by_cases hsp : sp = s.nc.tgt.space
    · subst hsp
      simpa [State.readByte, mem_space] using hold a fun hr => ha ⟨rfl, hr⟩
    · rw [State.readByte, mem_chunkCopied, mem_setMem_other s m hsp, State.readByte]
  · simp
  · simp
  · exact buf_setBuf_other s _ hj
  · unfold chunkCopied
    cases s.nc.tgt <;> rfl
  · unfold chunkCopied
    cases s.nc.tgt <;> rfl

/-- Settles O25. -/
theorem startPhase : Obligations.StartPhase := by
  intro s h
  have he : exec .ncstep s = phaseW4 s := by rw [exec_ncstep_write h rfl nofun nofun, writePhase, h.pc_eq]
  rw [he, phaseW4]
  exact ⟨fun hf => if_pos hf, fun hf => if_neg (by simp [hf])⟩

/-! ### The completion handler (40_transmit R160 to R164) -/

/-- Settles O29. -/
theorem completionPhases : Obligations.CompletionPhases := by
  intro s
  refine ⟨fun h => ?t1, fun i h hsrc => ?t2, fun h hsrc => ?mismatch, fun h => ?t3, fun h => ?t5⟩
  all_goals rw [exec_icstep_txc h rfl nofun, icPhase, h.pc_eq]
  case t1 | t5 => rfl
  case t2 | mismatch => simp only [phaseT2, hsrc, raiseChannelMismatch]
  case t3 => exact congrArg _ (setIcPc_setBuf s _ _ _)

theorem otherReady_iff (s : State) : s.otherReady = true ↔
    (s.buf s.ic.done.other).fill ≠ 0 ∧ (s.buf s.ic.done.other).busy = false := by
  simp [State.otherReady]

/-- Settles O30. -/
theorem handoffPhase : Obligations.HandoffPhase := by
  intro s h
  have he : exec .icstep s = phaseT4 s := by rw [exec_icstep_txc h rfl nofun, icPhase, h.pc_eq]
  rw [he, phaseT4, ← otherReady_iff]
  exact ⟨fun hr => if_pos hr, fun hr => if_neg hr⟩

/-! ### Which labels start the engine or turn the line (40_transmit R165, R167) -/

/-- The label leaves the transmit side: what the handlers of the receive side and of the trackers ensure, and most labels. -/
abbrev KeepsTx (s : State) (o : Out State) : Prop := Ensures True (fun t => t.tx = s.tx) o

theorem memWrite_scr_tx {a : Nat} {b : Byte} (h : memWrite s .scr a b = .ok t) : t.tx = s.tx := by
  obtain ⟨-, rfl⟩ := memWrite_ok h
  rfl

theorem ringPush_tx {b : Byte} (h : ringPush s b = .ok t) : t.tx = s.tx := by
  obtain ⟨-, rfl⟩ := ringPush_ok h
  rfl

theorem copyFrame_tx {k n : Nat} (h : copyFrame s k n = .ok t) : t.tx = s.tx := by
  obtain ⟨ht, -⟩ := copyFrame_frame h
  rw [ht]

theorem keepsTx_icPhase (h : s.ic.pc.handler ≠ .txc) : KeepsTx s (icPhase s) := by
  unfold icPhase
  cases hpc : s.ic.pc with
  | t1 | t2 | t3 | t4 | t5 | t6 => rw [hpc] at h; exact absurd rfl h
  | i1 | i2 | i3 | i5 | i6 | e1 => exact rfl
  | i4 =>
    simp only [phaseI4]
    cases hc : copyFrame s 0 s.ic.len with
    | error f => trivial
    | ok s1 => exact show s1.tx = s.tx from copyFrame_tx hc
  | i7 =>
    simp only [phaseI7]
    cases s.rx.cbReg <;> cases s.rx.qAtt <;> exact rfl
  | n1 =>
    simp only [phaseN1]
    cases hp : ringPush s s.rx.rdr with
    | error f => trivial
    | ok s1 => exact show s1.tx = s.tx from ringPush_tx hp
  | o1 | o2 =>
    simp only [phaseO1, phaseO2]
    cases s.tracker? s.ic.t <;> exact rfl

/-- What R167 allows a step of the completion handler that starts the engine: the other Buffer, not busy, with its queued bytes. -/
structure StartsOther (s t : State) : Prop where
  handler : s.ic.h = .txc
  phase : s.ic.pc = .t4
  source : t.tx.dtx.src = some s.ic.done.other
  ready : s.otherReady = true
  len : t.tx.dtx.len = (s.buf s.ic.done.other).fill
  rem : t.tx.dtx.rem = (s.buf s.ic.done.other).fill

/-- Only `T4` starts the engine (40_transmit R160 to R165). -/
theorem icPhase_starts (hp : s.ic.h.hasPhase s.ic.pc = true) :
    Ensures True (fun t => t.tx.dtx.en = true → s.tx.dtx.en = true ∨ StartsOther s t) (icPhase s) := by
  have hh := (hasPhase_iff _ _).mp hp
  by_cases htxc : s.ic.pc.handler = .txc
  · unfold icPhase
    cases hpc : s.ic.pc with
    | t1 => exact nofun
    | t2 =>
      simp only [phaseT2]
      cases s.tx.dtx.src <;> exact .inl
    | t3 => exact fun he => .inl (by simpa using he)
    | t4 =>
      refine .ite (fun hr => fun _ => .inr ⟨?_, hpc, rfl, hr, rfl, rfl⟩) fun _ => .inl
      rw [hh, htxc]
    | t5 => exact .inl
    | t6 =>
      simp only [phaseT6]
      cases s.tx.hd <;> exact .inl
    | _ => rw [hpc] at htxc; cases htxc
  · exact (keepsTx_icPhase htxc).mono id fun t ht he => .inl (ht ▸ he)

/-- Settles O52: `T4` alone starts the engine, and on the other Buffer. -/
theorem bufferMutualExclusion : Obligations.BufferMutualExclusion := by
  intro s t hst hoff hon
  have hs : Ensures True (fun t => t.tx.dtx.en = true → s.tx.dtx.en = true ∨ StartsOther s t) (exec .icstep s) :=
    .guarded .inl fun hr => icPhase_starts (hasPhase_of_icstepReady hr)
  rcases hs.next hst hon with h | ⟨hh, hpc, hsrc, hr, hlen, hrem⟩
  · simp [hoff] at h
  · obtain ⟨hfill, hbusy⟩ := (otherReady_iff s).mp hr
    exact ⟨hh, hpc, hsrc, hbusy, hfill, hlen, hrem⟩

/-- The direction line is not turned to receive. -/
def LineKept (s t : State) : Prop := s.tx.de = .tx → t.tx.de = .tx

theorem LineKept.of_tx (h : t.tx = s.tx) : LineKept s t := by rw [LineKept, h]; exact id

theorem lineKept_setBuf (s : State) (i : BufId) (f : TxBuf) : LineKept s (s.setBuf i f) := by
  rw [LineKept, setBuf_de]; exact id

/-- A started transfer turns a configured line to transmit (40_transmit R147, R163). -/
theorem lineKept_startTransfer (s : State) (i : BufId) : LineKept s (startTransfer s i) := by
  intro h
  simp [h]

theorem lineKept_writePhase (s : State) : Ensures True (LineKept s) (writePhase s) := by
  unfold writePhase
  cases s.nc.pc with
  | w0 | b0 => exact .ite (fun _ => id) fun _ => id
  | ws => exact .ite (fun _ => lineKept_setBuf { s with nc := { s.nc with tgt := s.chosen } } s.chosen _) fun _ => id
  | w1 | w5 => exact lineKept_setBuf s s.nc.tgt _
  | w3 =>
    refine .ite (fun _ => ?_) fun _ => trivial
    cases hw : memWriteBytes s s.nc.tgt.space (s.buf s.nc.tgt).fill s.nc.chunkBytes with
    | error f => trivial
    | ok s1 =>
      obtain ⟨hs, -⟩ := memWriteBytes_ok hw
      have h1 : LineKept s s1 := by rw [LineKept, hs.tx]; exact id
      exact fun h => lineKept_setBuf s1 s.nc.tgt _ (h1 h)
  | w4 => exact .ite (fun _ => id) fun _ => lineKept_startTransfer s s.nc.tgt
  | b2 =>
    simp only [phaseB2]
    cases s.nc.data[s.nc.ip]? with
    | none => trivial
    | some b => exact id
  | w2 | b1 | s1 | s2 | g1 | g2 => exact id

/-- The phases of `SETPOS` and `GETPOS` leave the transmit side. -/
theorem keepsTx_positionPhase (hop : s.nc.op ≠ .write) : KeepsTx s (ncPhase s) := by
  unfold ncPhase
  cases h : s.nc.op with
  | none => exact rfl
  | write => exact absurd h hop
  | setpos =>
    cases s.nc.pc with
    | s1 | s2 =>
      simp only [phaseS1, phaseS2]
      cases s.tracker? s.nc.t <;> exact rfl
    | _ => exact rfl
  | getpos =>
    cases s.nc.pc with
    | g1 | g2 =>
      simp only [phaseG1, phaseG2]
      cases s.tracker? s.nc.t <;> exact rfl
    | _ => exact rfl

theorem lineKept_ncPhase (s : State) : Ensures True (LineKept s) (ncPhase s) := by
  by_cases hop : s.nc.op = .write
  · rw [ncPhase, hop]
    exact lineKept_writePhase s
  · exact (keepsTx_positionPhase hop).mono id fun _ => .of_tx

/-- Every label but `ICSTEP` leaves the line or turns it to transmit. -/
theorem lineKept_exec {i : Instr} (hi : i ≠ .icstep) : Ensures True (LineKept s) (exec i s) := by
  cases i with
  | init baud parity hd => exact .whenReady id fun _ => .ite (fun _ => trivial) fun _ => id
  | write n => exact .whenReady id fun _ => .needsUart (.guarded id fun _ => id)
  | isbusy => exact .whenReady id fun _ => .needsUart id
  | chkfrm => exact .whenReady id fun _ => .needsUart (.ite (fun _ => id) fun _ => id)
  | setrxcb cb q => exact .whenReady id fun _ => id
  | rxpop =>
    refine .whenReady id fun _ => .needsUart (.ite (fun _ => id) fun _ => ?_)
    cases memRead s .ring s.rx.rd with
    | error f => trivial
    | ok b => exact id
  | posinit t =>
    refine .trackerCommand id (fun _ => id) fun _ _ => ?_
    obtain ⟨l, hl, -⟩ := markInited_eq s t.toNat
    rw [hl]
    exact id
  | initall =>
    refine .whenReady id fun _ => .ite (fun _ => id) fun _ => ?_
    obtain ⟨l, hl, -⟩ := foldl_markInited_eq (s.reg.slots.take s.reg.n) s
    rw [hl]
    exact id
  | setdir t sign => exact .trackerCommand id (fun _ => id) fun _ _ => id
  | setpos t target | getpos t => exact .trackerCommand id (fun _ => id) fun _ _ => .needsInited id
  | ncstep => exact .guarded id fun _ => lineKept_ncPhase s
  | icstep => exact absurd rfl hi
  | dtxb =>
    simp only [exec, execDtxb]
    cases s.tx.dtx.src with
    | none => exact id
    | some j =>
      refine .guarded id fun _ => ?_
      cases memRead s j.space (s.tx.dtx.len - s.tx.dtx.rem) with
      | error f => trivial
      | ok b => exact id
  | drxb =>
    refine .guarded id fun _ => ?_
    cases hw : memWrite s .scr (s.cfg.scratchCap - s.rx.drx.rem) s.rx.rdr with
    | error f => trivial
    | ok s1 => exact show LineKept s s1 from .of_tx (memWrite_scr_tx hw)
  | lineb b => exact .guarded id fun _ => .ite (fun _ => id) fun _ => id
  | cntup t | cntdn t | irqovf t => exact .trackerEvent fun _ => .guarded id fun _ => id
  | eqdisp | ltc | ltxe | lidle | irqtxc | irqidle | irqrxne | irqore => exact .guarded id fun _ => id

/-- The line is turned to receive only while the transmit engine has no byte left to move. -/
def TurnsOnlyWhenDrained (s t : State) : Prop :=
  s.tx.de = .tx → t.tx.de = .rx → ¬ (t.tx.dtx.en = true ∧ 0 < t.tx.dtx.rem)

theorem LineKept.turnsOnlyWhenDrained (h : LineKept s t) : TurnsOnlyWhenDrained s t := fun hs ht => by
  simp [h hs] at ht

/-- `T6` is held with half duplex until `tx.tc = 1` and no byte is left to move (90_conflicts C8; entry 28). -/
theorem icHeld_t6 (hpc : s.ic.pc = .t6) : s.icHeld = false ↔
    (s.tx.hd = true → s.tx.tc = true ∧ ¬ (s.tx.dtx.en = true ∧ 0 < s.tx.dtx.rem)) := by
  rw [← dtxMoving_iff]
  simp only [State.icHeld, hpc]
  cases s.tx.hd <;> simp

theorem turnsOnlyWhenDrained_icPhase (hheld : s.icHeld = false) :
    Ensures True (TurnsOnlyWhenDrained s) (icPhase s) := by
  by_cases htxc : s.ic.pc.handler = .txc
  · unfold icPhase
    cases hpc : s.ic.pc with
    | t1 | t5 => exact LineKept.turnsOnlyWhenDrained id
    | t2 =>
      simp only [phaseT2]
      cases s.tx.dtx.src <;> exact LineKept.turnsOnlyWhenDrained id
    | t3 => exact (lineKept_setBuf s s.ic.done _).turnsOnlyWhenDrained
    | t4 => exact .ite (fun _ => (lineKept_startTransfer s _).turnsOnlyWhenDrained) fun _ => LineKept.turnsOnlyWhenDrained id
    | t6 =>
      simp only [phaseT6]
      cases hhd : s.tx.hd with
      | false => exact LineKept.turnsOnlyWhenDrained id
      | true =>
        obtain ⟨-, hdrained⟩ := (icHeld_t6 hpc).mp hheld hhd
        exact fun _ _ => hdrained
    | _ => rw [hpc] at htxc; cases htxc
  · exact (keepsTx_icPhase htxc).mono id fun _ ht => (LineKept.of_tx ht).turnsOnlyWhenDrained

theorem turnsOnlyWhenDrained_exec (i : Instr) (s : State) : Ensures True (TurnsOnlyWhenDrained s) (exec i s) := by
  by_cases hi : i = .icstep
  · subst hi
    refine .guarded (LineKept.turnsOnlyWhenDrained id) fun hr => ?_
    obtain ⟨-, -, hheld⟩ := (icstepReady_iff s).mp hr
    exact turnsOnlyWhenDrained_icPhase hheld
  · exact (lineKept_exec hi).mono id fun _ => LineKept.turnsOnlyWhenDrained

/-- Phase `T6`, held or not (40_transmit R165, 90_conflicts C8). -/
theorem exec_icstep_t6 (h : HandlerAt s .txc .t6) : exec .icstep s = if s.icHeld then .next s else phaseT6 s := by
  cases hheld : s.icHeld with
  | false =>
    rw [exec_icstep_of h rfl hheld, icPhase, h.pc_eq]
    rfl
  | true => exact ite_notTaken (Bool.eq_false_iff.mpr fun hr => by simp [icstepReady_iff, hheld] at hr)

/-- Settles O31: the hold decides at `T6`, and no other phase or label turns the line to receive. -/
theorem directionPhase : Obligations.DirectionPhase := by
  refine ⟨fun s h => ?_, fun i s t hst => (turnsOnlyWhenDrained_exec i s).next hst⟩
  have hheld := icHeld_t6 h.pc_eq
  rw [exec_icstep_t6 h, phaseT6]
  cases hhd : s.tx.hd with
  | false =>
    rw [hheld.mpr (by simp [hhd])]
    rfl
  | true =>
    by_cases hd : s.tx.tc = true ∧ ¬ (s.tx.dtx.en = true ∧ 0 < s.tx.dtx.rem)
    · rw [hheld.mpr fun _ => hd, if_pos hd]
      rfl
    · rw [Bool.eq_true_of_not_eq_false (mt hheld.mp fun hh => hd (hh hhd)), if_neg hd]
      rfl

end Sys2Proof.Machine

/-! ## A `WRITE` of one chunk, from its acceptance to the sink (40_transmit R140 to R148, R152, R168). -/

namespace Sys2Proof.Machine

variable {s t : State} {i : BufId}

/-! ### Runs of labels -/

theorem runLabels_cons {l : Instr} {ls : List Instr} (h : exec l s = .next t) :
    runLabels (l :: ls) s = runLabels ls t := by
  rw [runLabels, h]

theorem runLabels_append {ls ms : List Instr} :
    ∀ {s : State}, runLabels ls s = .next t → runLabels (ls ++ ms) s = runLabels ms t := by
  induction ls with
  | nil => intro s h; cases h; rfl
  | cons l ls ih =>
    intro s h
    rw [runLabels] at h
    split at h
    · rename_i u hu
      rw [List.cons_append, runLabels_cons hu, ih h]
    · cases h
    · cases h

/-- With no command in progress `NCSTEP` is not taken (30_encoding R125). -/
theorem exec_ncstep_idle (h : s.nc.op = .none) : exec .ncstep s = .next s :=
  ite_notTaken (Bool.eq_false_iff.mpr fun hr => by simpa [h, NcOp.hasPhase] using hasPhase_of_ncstepReady hr)

theorem run_ncstep_idle (h : s.nc.op = .none) (k : Nat) : runLabels (List.replicate k .ncstep) s = .next s := by
  induction k with
  | zero => rfl
  | succ k ih => rw [List.replicate_succ, runLabels_cons (exec_ncstep_idle h), ih]

/-! ### Acceptance (40_transmit R141) -/

/-- The state in which `WRITE` leaves the block in DMA mode. -/
def latched (s : State) (n : BitVec 32) : State :=
  { s with
    nc := { s.nc with op := .write, data := s.inp.wdata.take n.toNat, ip := 0, rem := n.toNat, pc := .w0 }
    inp := { s.inp with wdata := s.inp.wdata.drop n.toNat } }

theorem exec_write_dma {n : BitVec 32} (hr : CommandPortReady s) (hu : s.uartInit = true) (hdma : s.cfg.txMode = .dma)
    (hlen : n.toNat ≤ s.inp.wdata.length) : exec (.write n) s = .next (latched s n) := by
  rw [writeAccepted n s hr hu hlen, if_pos hdma]
  rfl

/-- What the acceptance, the selection and the filling leave of the block. -/
structure BeforeStart (s t : State) : Prop where
  cfg : t.cfg = s.cfg
  uartInit : t.uartInit = s.uartInit
  ic : t.ic = s.ic
  fault : t.fault = s.fault
  obs : t.obs = s.obs
  inFlight : t.tx.inFlight = s.tx.inFlight

theorem BeforeStart.trans {u : State} (h : BeforeStart s t) (h' : BeforeStart t u) : BeforeStart s u :=
  ⟨h'.cfg.trans h.cfg, h'.uartInit.trans h.uartInit, h'.ic.trans h.ic, h'.fault.trans h.fault, h'.obs.trans h.obs,
    h'.inFlight.trans h.inFlight⟩

theorem beforeStart_setBuf (s : State) (i : BufId) (f : TxBuf) (n : Nc) :
    BeforeStart s { s.setBuf i f with nc := n } := by
  constructor <;> simp

theorem beforeStart_chunkCopied (s : State) (m : Memory) : BeforeStart s (chunkCopied s m) :=
  beforeStart_setBuf s s.nc.tgt _ _

theorem beforeStart_latched (s : State) (n : BitVec 32) : BeforeStart s (latched s n) := ⟨rfl, rfl, rfl, rfl, rfl, rfl⟩

theorem BeforeStart.normalAt {op : NcOp} {p : NcPhase} (h : BeforeStart s t) (hi : s.ic.h = .none) (hf : s.fault = .none)
    (hop : t.nc.op = op) (hpc : t.nc.pc = p) : NormalAt t op p :=
  ⟨h.ic ▸ hi, h.fault.trans hf, hop, hpc⟩

/-! ### Selection: `W0`, `WS` and `W1`, or `W0` and the fused `WS` (40_transmit R142 to R144) -/

/-- Buffer `i` is the target and busy, and the chunk is to be sized. -/
def selected (s : State) (i : BufId) : State :=
  { s.setBuf i { s.buf i with busy := true } with nc := { s.nc with tgt := i, pc := .w2 } }

@[simp] theorem buf_selected (s : State) (i : BufId) : (selected s i).buf i = { s.buf i with busy := true } :=
  buf_setBuf_same s i _

theorem beforeStart_selected (s : State) (i : BufId) : BeforeStart s (selected s i) := beforeStart_setBuf s i _ _

/-- The steps from `W0` to `W2`: the fused selection saves one. -/
def selectSteps (c : Cfg) : Nat := if c.fuseSelectBusy then 2 else 3

theorem run_select (h : NormalAt s .write .w0) (hrem : s.nc.rem ≠ 0) (hsrc : s.tx.dtx.src ≠ some i)
    (hfill : (s.buf i).fill < s.cfg.txCap)
    (hfirst : i = .b1 → ¬ (s.tx.dtx.src ≠ some .b0 ∧ (s.buf .b0).fill < s.cfg.txCap)) :
    runLabels (List.replicate (selectSteps s.cfg) .ncstep) s = .next (selected s i) := by
  obtain ⟨hi, hf, hop, -⟩ := id h
  obtain ⟨w0, -⟩ := producerPhases s
  have h0 := w0 h
  rw [if_neg hrem] at h0
  obtain ⟨ws, -⟩ := selectionPhase { s with nc := { s.nc with pc := .ws } } ⟨hi, hf, hop, rfl⟩
  have hs := ws i hsrc hfill hfirst
  unfold selectSteps
  cases hfuse : s.cfg.fuseSelectBusy with
  | true =>
    rw [if_pos hfuse] at hs
    rw [if_pos rfl, List.replicate_succ, runLabels_cons h0, List.replicate_succ, runLabels_cons hs]
    cases i <;> rfl
  | false =>
    rw [if_neg (by simp [hfuse])] at hs
    obtain ⟨-, -, w1, -⟩ := producerPhases { s with nc := { s.nc with tgt := i, pc := .w1 } }
    have h1 := w1 ⟨hi, hf, hop, rfl⟩
    rw [if_neg nofun, List.replicate_succ, runLabels_cons h0, List.replicate_succ, runLabels_cons hs,
      List.replicate_succ, runLabels_cons h1]
    cases i <;> rfl

/-! ### Filling: `W2` and `W3` (40_transmit R145, R146) -/

/-- The whole payload is one chunk. -/
def chunkSized (s : State) : State :=
  { s with nc := { s.nc with space := s.cfg.txCap, chunk := s.nc.rem, pc := .w3 } }

/-- Buffer `i` holds the payload `bs` whole and nothing else, and phase `W4` is next: `s` is the block before, `t` after. -/
structure Filled (s : State) (i : BufId) (bs : List Byte) (t : State) : Prop where
  before : BeforeStart s t
  op : t.nc.op = .write
  phase : t.nc.pc = .w4
  target : t.nc.tgt = i
  noneLeft : t.nc.rem = 0
  fill : (t.buf i).fill = bs.length
  stored : ∀ k, k < bs.length → (t.buf i).mem.read k = bs[k]?

theorem Filled.of_before {bs : List Byte} {u : State} (hb : BeforeStart s t) (h : Filled t i bs u) : Filled s i bs u :=
  { h with before := hb.trans h.before }

/-- A payload that fits the empty target is stored from index 0 on. -/
theorem run_fill (h : NormalAt s .write .w2) (hempty : (s.buf s.nc.tgt).fill = 0) (hip : s.nc.ip = 0)
    (hrem : s.nc.rem = s.nc.data.length) (hcap : s.nc.data.length ≤ s.cfg.txCap) :
    ∃ t, runLabels (List.replicate 2 .ncstep) s = .next t ∧ Filled s s.nc.tgt s.nc.data t := by
  obtain ⟨hi, hf, hop, -⟩ := id h
  rw [← hrem] at hcap
  obtain ⟨-, -, -, w2, -⟩ := producerPhases s
  have h2 : exec .ncstep s = .next (chunkSized s) := by
    rw [w2 h, hempty, Nat.sub_zero, Nat.min_eq_right hcap]
    rfl
  have hbuf : (chunkSized s).buf (chunkSized s).nc.tgt = s.buf s.nc.tgt := rfl
  obtain ⟨m, h3, hread, -⟩ := exec_ncstep_w3 (s := chunkSized s) ⟨hi, hf, hop, rfl⟩
    (by rw [hbuf, hempty, Nat.zero_add]; exact hcap) (by simp [chunkSized, hip, hrem])
  have hbuf3 := buf_chunkCopied (chunkSized s) m
  rw [hbuf, hempty, Nat.zero_add] at hbuf3
  refine ⟨chunkCopied (chunkSized s) m, ?_, {
    before := .trans (t := chunkSized s) ⟨rfl, rfl, rfl, rfl, rfl, rfl⟩ (beforeStart_chunkCopied _ m)
    op := hop
    phase := rfl
    target := rfl
    noneLeft := Nat.sub_self s.nc.rem
    fill := (congrArg TxBuf.fill hbuf3).trans hrem
    stored := fun k hk => ?_ }⟩
  · rw [List.replicate_succ, runLabels_cons h2, List.replicate_succ, runLabels_cons h3]
    rfl
  · have hk' := hread k (hk.trans_eq hrem.symm)
    rw [hbuf, hempty, Nat.zero_add] at hk'
    rw [show ((chunkCopied (chunkSized s) m).buf s.nc.tgt).mem = m from congrArg TxBuf.mem hbuf3, hk', chunkSized, hip,
      Nat.zero_add]

/-! ### Starting and answering: `W4`, `W5` and `W0` (40_transmit R147, R148, R142) -/

/-- The target's transfer is started. -/
def started (s : State) : State :=
  { startTransfer s s.nc.tgt with
    tx := { (startTransfer s s.nc.tgt).tx with inFlight := true }
    nc := { s.nc with pc := .w5 } }

@[simp] theorem started_cfg (s : State) : (started s).cfg = s.cfg := rfl
@[simp] theorem started_uartInit (s : State) : (started s).uartInit = s.uartInit := rfl
@[simp] theorem started_dtx (s : State) : (started s).tx.dtx =
    { en := true, src := some s.nc.tgt, len := (s.buf s.nc.tgt).fill, rem := (s.buf s.nc.tgt).fill } := rfl
@[simp] theorem started_inFlight (s : State) : (started s).tx.inFlight = true := rfl
@[simp] theorem started_ic (s : State) : (started s).ic = s.ic := rfl
@[simp] theorem started_fault (s : State) : (started s).fault = s.fault := rfl
@[simp] theorem started_obs (s : State) : (started s).obs = s.obs := rfl

/-- The target's busy flag is clear. -/
def released (s : State) : State :=
  { s.setBuf s.nc.tgt { s.buf s.nc.tgt with busy := false } with nc := { s.nc with pc := .w0 } }

@[simp] theorem buf_released (s : State) : (released s).buf s.nc.tgt = { s.buf s.nc.tgt with busy := false } :=
  buf_setBuf_same s s.nc.tgt _

@[simp] theorem released_cfg (s : State) : (released s).cfg = s.cfg := setBuf_cfg s s.nc.tgt _
@[simp] theorem released_uartInit (s : State) : (released s).uartInit = s.uartInit := setBuf_uartInit s s.nc.tgt _
@[simp] theorem released_dtx (s : State) : (released s).tx.dtx = s.tx.dtx := setBuf_dtx s s.nc.tgt _
@[simp] theorem released_inFlight (s : State) : (released s).tx.inFlight = s.tx.inFlight := setBuf_inFlight s s.nc.tgt _
@[simp] theorem released_ic (s : State) : (released s).ic = s.ic := setBuf_ic s s.nc.tgt _
@[simp] theorem released_fault (s : State) : (released s).fault = s.fault := setBuf_fault s s.nc.tgt _
@[simp] theorem released_obs (s : State) : (released s).obs = s.obs := setBuf_obs s s.nc.tgt _

/-- A payload that is all stored is started and answered. -/
theorem run_start (h : NormalAt s .write .w4) (hidle : s.tx.inFlight = false) (hrem : s.nc.rem = 0) :
    runLabels (List.replicate 3 .ncstep) s = .next (respond (released (started s)) statusOk 0) := by
  obtain ⟨hi, hf, hop, -⟩ := id h
  obtain ⟨-, w4⟩ := startPhase s h
  have h4 : exec .ncstep s = .next (started s) := w4 hidle
  obtain ⟨-, -, -, -, w5⟩ := producerPhases (started s)
  have h5 : exec .ncstep (started s) = .next (released (started s)) := w5 ⟨hi, hf, hop, rfl⟩
  obtain ⟨w0, -⟩ := producerPhases (released (started s))
  have h0 := w0 ⟨by simpa using hi, by simpa using hf, hop, rfl⟩
  rw [if_pos (show (released (started s)).nc.rem = 0 from hrem)] at h0
  rw [List.replicate_succ, runLabels_cons h4, List.replicate_succ, runLabels_cons h5, List.replicate_succ,
    runLabels_cons h0]
  rfl

/-! ### Draining: `DTXB` (40_transmit R152) -/

/-- The transmit DMA engine is to move the bytes `bs` of Buffer `i`. -/
structure Transferring (s : State) (i : BufId) (bs : List Byte) : Prop where
  uartInit : s.uartInit = true
  mode : s.cfg.txMode = .dma
  noFault : s.fault = .none
  running : s.tx.dtx.en = true
  source : s.tx.dtx.src = some i
  left : s.tx.dtx.rem = bs.length
  remLen : s.tx.dtx.rem ≤ s.tx.dtx.len
  lenCap : s.tx.dtx.len ≤ s.cfg.txCap
  stored : ∀ k, k < bs.length → (s.buf i).mem.read (s.tx.dtx.len - s.tx.dtx.rem + k) = bs[k]?

/-- The engine has moved one byte to the sink. -/
def byteMoved (s : State) (b : Byte) : State :=
  { emitTx s b with tx := { s.tx with
    dtx := { s.tx.dtx with rem := s.tx.dtx.rem - 1 }
    tc := false
    tcif := s.tx.tcif || s.tx.dtx.rem - 1 = 0 } }

theorem Transferring.exec_dtxb {b : Byte} {bs : List Byte} (h : Transferring s i (b :: bs)) :
    exec .dtxb s = .next (byteMoved s b) ∧ Transferring (byteMoved s b) i bs := by
  obtain ⟨hu, hm, hf, hen, hsrc, hleft, hrl, hlc, hst⟩ := h
  rw [List.length_cons] at hleft hst
  have hready : s.dtxbReady = true := by
    simp only [State.dtxbReady, Bool.and_eq_true, serialOn_iff, decide_eq_true_eq, dtxMoving_iff]
    exact ⟨⟨⟨hu, hf⟩, hm⟩, hen, by omega⟩
  have hread : memRead s i.space (s.tx.dtx.len - s.tx.dtx.rem) = .ok b :=
    memRead_of (by rw [capacityOf_space]; omega) (by simpa [State.readByte, mem_space] using hst 0 (by omega))
  refine ⟨?_, hu, hm, hf, hen, hsrc, ?_, ?_, hlc, fun k hk => ?_⟩
  · simp only [exec, execDtxb, hsrc, hready, hread, if_true, byteMoved, emitTx_tx]
  · exact (congrArg (· - 1) hleft).trans (Nat.add_sub_cancel ..)
  · exact (Nat.sub_le _ 1).trans hrl
  · have hnext := hst (k + 1) (by omega)
    have hpos : s.tx.dtx.len - (s.tx.dtx.rem - 1) + k = s.tx.dtx.len - s.tx.dtx.rem + (k + 1) := by omega
    rw [← hpos, List.getElem?_cons_succ] at hnext
    exact hnext

/-- The engine has moved the bytes `bs`, the last of its transfer. -/
def drained (s : State) (bs : List Byte) : State :=
  { s with
    tx := { s.tx with
      dtx := { s.tx.dtx with rem := 0 }
      tc := s.tx.tc && bs.isEmpty
      tcif := s.tx.tcif || !bs.isEmpty }
    obs := { s.obs with txStream := s.obs.txStream ++ bs } }

theorem drained_nil (h : s.tx.dtx.rem = 0) : drained s [] = s := by
  simp [drained, ← h]

/-- The last byte sets the completion flag. -/
theorem drained_cons {b : Byte} {bs : List Byte} (h : s.tx.dtx.rem = (b :: bs).length) :
    drained (byteMoved s b) bs = drained s (b :: bs) := by
  cases bs <;> simp [drained, byteMoved, h]

/-- A transfer is moved to the sink whole and in order. -/
theorem Transferring.run {bs : List Byte} :
    ∀ {s : State}, Transferring s i bs → runLabels (List.replicate bs.length .dtxb) s = .next (drained s bs) := by
  induction bs with
  | nil => intro s h; rw [drained_nil h.left]; rfl
  | cons b bs ih =>
    intro s h
    obtain ⟨hb, h'⟩ := h.exec_dtxb
    rw [List.length_cons, List.replicate_succ, runLabels_cons hb, ih h', drained_cons h.left]

/-! ### The whole `Write` -/

/-- The host has its answer and the transfer of `bs` from Buffer `i` is running: `s` is the block before, `u` after. -/
structure Accepted (s : State) (i : BufId) (bs : List Byte) (u : State) : Prop where
  transferring : Transferring u i bs
  idle : u.nc.op = .none
  inFlight : u.tx.inFlight = true
  notBusy : (u.buf i).busy = false
  obs : u.obs = { s.obs with resp := s.obs.resp ++ [respWord statusOk 0] }

/-- A payload that is stored whole is started and answered. -/
theorem Filled.run_start {bs : List Byte} (h : Filled s i bs t) (hi : s.ic.h = .none) (hf : s.fault = .none)
    (hu : s.uartInit = true) (hdma : s.cfg.txMode = .dma) (hidle : s.tx.inFlight = false) (hcap : bs.length ≤ s.cfg.txCap) :
    ∃ u, runLabels (List.replicate 3 .ncstep) t = .next u ∧ Accepted s i bs u := by
  obtain ⟨k, hop, hpc, rfl, hrem, hfill, hstored⟩ := h
  refine ⟨_, Machine.run_start (k.normalAt hi hf hop hpc) (k.inFlight.trans hidle) hrem, ?_⟩
  have hbuf : (respond (released (started t)) statusOk 0).buf t.nc.tgt = { t.buf t.nc.tgt with busy := false } :=
    buf_released (started t)
  have hdtx : (respond (released (started t)) statusOk 0).tx.dtx =
      { en := true, src := some t.nc.tgt, len := bs.length, rem := bs.length } := by
    simp [hfill]
  exact {
    transferring := {
      uartInit := by simpa [k.uartInit] using hu
      mode := by simpa [k.cfg] using hdma
      noFault := by simpa [k.fault] using hf
      running := by rw [hdtx]
      source := by rw [hdtx]
      left := by rw [hdtx]
      remLen := by rw [hdtx]
      lenCap := by rw [hdtx]; simpa [k.cfg] using hcap
      stored := fun a ha => by rw [hbuf, hdtx, Nat.sub_self, Nat.zero_add]; exact hstored a ha }
    idle := rfl
    inFlight := by simp
    notBusy := by rw [hbuf]
    obs := by simp [k.obs] }

/-- `WRITE` and the eight steps of its one chunk; with the fused selection the eighth is not taken (entry 1). -/
theorem run_write {n : BitVec 32} (hr : CommandPortReady s) (hu : s.uartInit = true) (hdma : s.cfg.txMode = .dma)
    (hidle : s.tx.inFlight = false) (hsrc : s.tx.dtx.src ≠ some i) (hempty : (s.buf i).fill = 0)
    (hfirst : i = .b1 → ¬ (s.tx.dtx.src ≠ some .b0 ∧ (s.buf .b0).fill < s.cfg.txCap))
    (hpos : 1 ≤ n.toNat) (hcap : n.toNat ≤ s.cfg.txCap) (hlen : n.toNat ≤ s.inp.wdata.length) :
    ∃ u, runLabels ([.write n] ++ List.replicate 8 .ncstep) s = .next u ∧
      Accepted s i (s.inp.wdata.take n.toNat) u := by
  obtain ⟨-, hi, hf⟩ := id hr
  have hbs : (s.inp.wdata.take n.toNat).length = n.toNat := by simp [hlen]
  have hselect : runLabels (List.replicate (selectSteps s.cfg) .ncstep) (latched s n) = .next (selected (latched s n) i) :=
    run_select (s := latched s n) ⟨hi, hf, rfl, rfl⟩ (Nat.ne_of_gt hpos) hsrc
      (show (s.buf i).fill < s.cfg.txCap by omega) hfirst
  have k := (beforeStart_latched s n).trans (beforeStart_selected _ i)
  have hbuf : (selected (latched s n) i).buf i = { s.buf i with busy := true } := buf_selected _ i
  obtain ⟨v, hfill, hv⟩ := run_fill (k.normalAt hi hf rfl rfl) ((congrArg TxBuf.fill hbuf).trans hempty) rfl hbs.symm
    (by rw [k.cfg]; exact hbs.le.trans hcap)
  obtain ⟨u, hstart, hacc⟩ := (hv.of_before k).run_start hi hf hu hdma hidle (hbs.le.trans hcap)
  have hsteps : 8 = selectSteps s.cfg + (2 + (3 + (3 - selectSteps s.cfg))) := by
    unfold selectSteps; split <;> rfl
  refine ⟨u, ?_, hacc⟩
  rw [List.singleton_append, runLabels_cons (exec_write_dma hr hu hdma hlen), hsteps, List.replicate_add,
    runLabels_append hselect, List.replicate_add, runLabels_append hfill, List.replicate_add, runLabels_append hstart,
    run_ncstep_idle hacc.idle]

/-- Settles O55: the chunk is accepted whole by the selected Buffer, and its transfer is moved to the sink. -/
theorem writeThenDrain : Obligations.WriteThenDrain := by
  intro s i n hr hu hdma hidle hsrc hempty hfirst hpos hcap hlen
  obtain ⟨u, hrun, htr, hop, hin, hbusy, hobs⟩ := run_write hr hu hdma hidle hsrc hempty hfirst hpos hcap hlen
  have hbs : (s.inp.wdata.take n.toNat).length = n.toNat := by simp [hlen]
  have hne : (s.inp.wdata.take n.toNat).isEmpty = false :=
    List.isEmpty_eq_false_iff.mpr (List.ne_nil_of_length_pos (by omega))
  have hdrain := htr.run
  rw [hbs] at hdrain
  refine ⟨drained u (s.inp.wdata.take n.toNat), (runLabels_append hrun).trans hdrain, ?_, ?_, hop, hin, htr.source, rfl, ?_,
    hbusy⟩
  · simp [drained, hobs]
  · simp [drained, hobs]
  · simp [drained, hne]

end Sys2Proof.Machine

/-! ## The receive side phase by phase (41_receive R184 to R192, R194, R196). -/

namespace Sys2Proof.Machine

variable {s : State}

/-! ### `RXPOP` (R196) -/

/-- The flag bit and the byte of `RXPOP`'s value do not overlap (30_encoding R114). -/
theorem popValue_eq (b : Byte) : popValue b = 0x100 + b.setWidth 32 := by
  refine BitVec.eq_of_toNat_eq ?_
  have hb := b.isLt
  have hlow : ((1 : BitVec 1) ++ b).toNat = 256 + b.toNat := by
    rw [BitVec.toNat_append, ← Nat.shiftLeft_add_eq_or_of_lt hb]
    rfl
  have hhigh : (popValue b).toNat = ((1 : BitVec 1) ++ b).toNat := (BitVec.toNat_append (0 : BitVec 23) _).trans (by simp)
  rw [hhigh, hlow, BitVec.toNat_add, BitVec.toNat_setWidth, show (0x100 : BitVec 32).toNat = 256 from rfl]
  omega

/-- Settles O18: the guards hold, and the cursors decide. -/
theorem rxpopResult : Obligations.RxpopResult := by
  intro s hr hu
  refine ⟨fun he => (serial_ready hr hu).trans (if_pos he), fun b hne hrd hb => (serial_ready hr hu).trans ?_⟩
  rw [if_neg hne, memRead_of (sp := .ring) hrd hb, ← popValue_eq]

/-! ### The line, the receive DMA engine and the dispatch (R180 to R183) -/

theorem exec_lineb_of_empty (hu : s.uartInit = true) (hf : s.fault = .none) (he : s.rx.rxne = false) (b : Byte) :
    exec (.lineb b) s = .next { s with rx := { s.rx with rdr := b, rxne := true } } := by
  obtain ⟨-, -, hline, -⟩ := serialLineEvents s b
  rw [hline, if_pos ⟨hu, hf⟩, if_neg (by simp [he])]

/-- The idle-line flag is set. -/
def idleRaised (s : State) : State := { s with rx := { s.rx with idle := true } }

theorem exec_lidle_of (hu : s.uartInit = true) (hf : s.fault = .none) : exec .lidle s = .next (idleRaised s) := by
  obtain ⟨-, -, -, hidle⟩ := serialLineEvents s 0
  rw [hidle, if_pos ⟨hu, hf⟩, idleRaised]

theorem drxbReady_iff (s : State) : s.drxbReady = true ↔ s.uartInit = true ∧ s.fault = .none ∧ s.cfg.rxMode = .dma ∧
    s.rx.drx.en = true ∧ s.rx.rxne = true := by
  simp only [State.drxbReady, Bool.and_eq_true, serialOn_iff, decide_eq_true_eq, and_assoc]

theorem exec_drxb_of (hr : s.drxbReady = true) (ha : s.cfg.scratchCap - s.rx.drx.rem < s.cfg.scratchCap) :
    exec .drxb s = .next { s with rx := { s.rx with
      scr := s.rx.scr.write (s.cfg.scratchCap - s.rx.drx.rem) s.rx.rdr
      rxne := false
      drx := { s.rx.drx with rem := nextDrxRem s.cfg.scratchCap s.rx.drx.rem } } } := by
  refine (if_pos hr).trans ?_
  rw [memWrite_of (sp := .scr) _ ha]
  rfl

/-- With no priority order any source may be dispatched in normal context (60_exceptions R270, R272). -/
theorem dispatchReady_of (hi : s.ic.h = .none) (hf : s.fault = .none) (hp : PriorityFree s) (src : IrqSource) :
    s.dispatchReady src = true := by
  simp [State.dispatchReady, State.prioAllows, hi, hf, hp]

theorem exec_irqidle_of (hr : s.dispatchReady .idle = true) (hu : s.uartInit = true) (hidle : s.rx.idle = true) :
    exec .irqidle s = .next (enterHandler s .idle .i1) :=
  if_pos (by simp [State.irqRequested, hr, hu, hidle])

/-! ### The handlers (R184 to R192, R194) -/

/-- A phase that is never held (30_encoding R126). -/
theorem exec_icstep_unheld {h : Handler} {p : IcPhase} (hat : HandlerAt s h p) (hp : h.hasPhase p = true) (h6 : p ≠ .t6) :
    exec .icstep s = icPhase s := exec_icstep_of hat hp (icHeld_of_ne (hat.pc_eq ▸ h6))

/-- Settles O32. -/
theorem idleHandlerPhases : Obligations.IdleHandlerPhases := by
  intro s
  refine ⟨fun h => ?i1, fun h => ?i2, fun h => ?i3, fun h => ?i5, fun h => ?i6⟩
  all_goals rw [exec_icstep_unheld h rfl nofun, icPhase, h.pc_eq]
  case i1 => cases hm : s.cfg.rxMode <;> simp only [phaseI1, hm] <;> rfl
  case i2 | i3 | i5 | i6 => rfl

/-- Settles O33: the frame is copied whole, and the copy leaves its last bytes in the ring. -/
theorem copyFramePhase : Obligations.CopyFramePhase := by
  intro s h hwr hlen hwritten
  obtain ⟨t, hcopy⟩ := copyFrame_of (n := s.ic.len) (k := 0) hwr (by omega) fun a _ ha => hwritten a (by omega)
  obtain ⟨hframe, -⟩ := copyFrame_frame hcopy
  obtain ⟨hcursor, hcopied, hother⟩ := copyFrame_ok hcopy hwr
  refine ⟨t.rx.ring, ?_, fun k hk hlast => ?_, hother⟩
  · rw [exec_icstep_unheld h rfl nofun, icPhase, h.pc_eq]
    simp only [phaseI4, hcopy]
    rw [← hcursor, hframe]
    rfl
  · rw [hcopied k hk hlast, Nat.zero_add]
    rfl

theorem eqdispReady_iff (s : State) : s.eqdispReady = true ↔ 0 < s.evq ∧ CommandPortReady s := by
  simp only [State.eqdispReady, Bool.and_eq_true, decide_eq_true_eq, cmdReady_iff]

/-- Settles O34: by what is registered and attached at `I7`; `EQDISP` is a guarded effect. -/
theorem callbackPhases : Obligations.CallbackPhases := by
  intro s
  refine ⟨fun h => ?_, ite_next (eqdispReady_iff s) _⟩
  rw [exec_icstep_unheld h rfl nofun, icPhase, h.pc_eq]
  cases hcb : s.rx.cbReg with
  | false => simp only [phaseI7, hcb]; rfl
  | true => cases hq : s.rx.qAtt <;> simp only [phaseI7, hcb, hq] <;> rfl

/-- Settles O35. -/
theorem byteAndOverrunPhases : Obligations.ByteAndOverrunPhases := by
  intro s
  refine ⟨fun h hwr => ⟨s.rx.ring.write s.rx.wr s.rx.rdr, ?n1, read_write_same .., fun a ha => read_write_other _ _ ha⟩,
    fun h => ?e1⟩
  all_goals rw [exec_icstep_unheld h rfl nofun, icPhase, h.pc_eq]
  case n1 => simp only [phaseN1, ringPush_of s.rx.rdr hwr]; rfl
  case e1 => rfl

end Sys2Proof.Machine

/-! ## A frame, from its first byte on the line to the ring (41_receive R180 to R190, R197; 30_encoding R129). -/

namespace Sys2Proof.Machine

variable {s : State}

/-! ### The bytes: `LINEB` and `DRXB` (41_receive R180, R182) -/

/-- The receive DMA engine runs with no byte waiting, and its count is not reloaded within the next `n` bytes. -/
structure Receiving (s : State) (n : Nat) : Prop where
  uartInit : s.uartInit = true
  mode : s.cfg.rxMode = .dma
  noFault : s.fault = .none
  running : s.rx.drx.en = true
  empty : s.rx.rxne = false
  room : n < s.rx.drx.rem
  remCap : s.rx.drx.rem ≤ s.cfg.scratchCap

/-- The engine has moved `n` bytes into the scratch buffer, now `m`; `b` was the last in the data register. -/
def bytesReceived (s : State) (m : Memory) (b : Byte) (n : Nat) : State :=
  { s with rx := { s.rx with scr := m, rdr := b, drx := { s.rx.drx with rem := s.rx.drx.rem - n } } }

theorem bytesReceived_bytesReceived (s : State) (m m' : Memory) (b b' : Byte) (k n : Nat) :
    bytesReceived (bytesReceived s m b k) m' b' n = bytesReceived s m' b' (n + k) := by
  simp only [bytesReceived, Nat.sub_sub, Nat.add_comm k n]

/-- One byte more, at the index the count names (20_memory R96). -/
def byteReceived (s : State) (b : Byte) : State :=
  bytesReceived s (s.rx.scr.write (s.cfg.scratchCap - s.rx.drx.rem) b) b 1

theorem Receiving.run_byte {n : Nat} (h : Receiving s (n + 1)) (b : Byte) :
    runLabels [.lineb b, .drxb] s = .next (byteReceived s b) ∧ Receiving (byteReceived s b) n := by
  obtain ⟨hu, hm, hf, hen, hempty, hroom, hcap⟩ := h
  have hnext : nextDrxRem s.cfg.scratchCap s.rx.drx.rem = s.rx.drx.rem - 1 := if_neg (by omega)
  have hdrx := exec_drxb_of (s := { s with rx := { s.rx with rdr := b, rxne := true } })
    ((drxbReady_iff _).mpr ⟨hu, hf, hm, hen, rfl⟩)
    (show s.cfg.scratchCap - s.rx.drx.rem < s.cfg.scratchCap by omega)
  refine ⟨?_, hu, hm, hf, hen, hempty, ?_, ?_⟩
  · rw [runLabels_cons (exec_lineb_of_empty hu hf hempty b), runLabels_cons hdrx]
    simp only [runLabels, byteReceived, bytesReceived, hnext, hempty]
  · exact (by omega : n < s.rx.drx.rem - 1)
  · exact (Nat.sub_le ..).trans hcap

/-- The bytes stand in the scratch buffer in order, from the first index the engine had not yet stored to. -/
theorem Receiving.run {bs : List Byte} : ∀ {s : State}, Receiving s bs.length →
    ∃ m b, runLabels (bs.flatMap fun b => [.lineb b, .drxb]) s = .next (bytesReceived s m b bs.length)
      ∧ (∀ k, k < bs.length → m.read (s.cfg.scratchCap - s.rx.drx.rem + k) = bs[k]?)
      ∧ (∀ a, a < s.cfg.scratchCap - s.rx.drx.rem → m.read a = s.rx.scr.read a) := by
  induction bs with
  | nil => exact fun {s} _ => ⟨s.rx.scr, s.rx.rdr, rfl, nofun, fun _ _ => rfl⟩
  | cons b bs ih =>
    intro s h
    obtain ⟨hbyte, h'⟩ := h.run_byte b
    obtain ⟨m, c, hrun, hnew, hold⟩ := ih h'
    have hfirst : s.cfg.scratchCap - (s.rx.drx.rem - 1) = s.cfg.scratchCap - s.rx.drx.rem + 1 := by
      have := h.room
      have := h.remCap
      omega
    simp only [byteReceived, bytesReceived, hfirst] at hnew hold
    refine ⟨m, c, ?_, fun k hk => ?_, fun a ha => ?_⟩
    · rw [List.flatMap_cons, runLabels_append hbyte, hrun, byteReceived, bytesReceived_bytesReceived]
      rfl
    · cases k with
      | zero => exact (hold _ (Nat.lt_succ_self _)).trans (read_write_same ..)
      | succ k =>
        have hk' := hnew k (Nat.lt_of_succ_lt_succ hk)
        rwa [Nat.add_right_comm] at hk'
    · rw [hold a (by omega), read_write_other _ _ (by omega)]

/-! ### The idle line: `LIDLE` and `IRQIDLE` (41_receive R181, R183) -/

theorem run_idle (hi : s.ic.h = .none) (hf : s.fault = .none) (hp : PriorityFree s) (hu : s.uartInit = true) :
    runLabels [.lidle, .irqidle] s = .next (enterHandler (idleRaised s) .idle .i1) := by
  have henter := exec_irqidle_of (dispatchReady_of (s := idleRaised s) hi hf hp .idle) hu rfl
  rw [runLabels_cons (exec_lidle_of hu hf), runLabels_cons henter]
  rfl

/-! ### The idle handler in DMA mode (41_receive R184 to R190) -/

/-- Phase `I4` is next: the engine is stopped, its count reset, the received length latched. -/
def frameSignalled (s : State) : State :=
  { s with
    rx := { s.rx with frame := true, drx := { en := false, rem := s.cfg.scratchCap } }
    ic := { s.ic with len := s.cfg.scratchCap - s.rx.drx.rem, pc := .i4 } }

theorem run_signal (h : HandlerAt s .idle .i1) (hm : s.cfg.rxMode = .dma) :
    runLabels (List.replicate 3 .icstep) s = .next (frameSignalled s) := by
  obtain ⟨hf, hh, -⟩ := id h
  obtain ⟨i1, -⟩ := idleHandlerPhases s
  have h1 := i1 h
  rw [if_pos hm] at h1
  obtain ⟨-, i2, -⟩ := idleHandlerPhases
    { s with rx := { s.rx with frame := true }, ic := { s.ic with pc := .i2 } }
  have h2 := i2 ⟨hf, hh, rfl⟩
  obtain ⟨-, -, i3, -⟩ := idleHandlerPhases
    { s with
      rx := { s.rx with frame := true, drx := { s.rx.drx with en := false } }
      ic := { s.ic with len := s.cfg.scratchCap - s.rx.drx.rem, pc := .i3 } }
  have h3 := i3 ⟨hf, hh, rfl⟩
  rw [List.replicate_succ, runLabels_cons h1, List.replicate_succ, runLabels_cons h2, List.replicate_succ,
    runLabels_cons h3]
  rfl

/-- Phase `I5` is next: the ring is `m`, its write cursor past the frame. -/
def frameCopied (s : State) (m : Memory) : State :=
  { s with
    rx := { s.rx with ring := m, wr := (s.rx.wr + s.ic.len) % s.cfg.ringCap }
    ic := { s.ic with pc := .i5 } }

/-- From `I5` the handler returns with the engine running and the idle-line flag clear; the callback changes neither `rx` nor `nc`. -/
theorem run_return (h : HandlerAt s .idle .i5) : ∃ t, runLabels (List.replicate 3 .icstep) s = .next t
    ∧ t.rx = { s.rx with drx := { s.rx.drx with en := true }, idle := false } ∧ t.ic.h = .none ∧ t.nc = s.nc := by
  obtain ⟨hf, hh, -⟩ := id h
  obtain ⟨-, -, -, i5, -⟩ := idleHandlerPhases s
  obtain ⟨-, -, -, -, i6⟩ := idleHandlerPhases
    { s with rx := { s.rx with drx := { s.rx.drx with en := true } }, ic := { s.ic with pc := .i6 } }
  obtain ⟨i7, -⟩ := callbackPhases
    { s with
      rx := { s.rx with drx := { s.rx.drx with en := true }, idle := false }
      ic := { s.ic with pc := .i7 } }
  have h6 := i6 ⟨hf, hh, rfl⟩
  have h7 := i7 ⟨hf, hh, rfl⟩
  rw [List.replicate_succ, runLabels_cons (i5 h), List.replicate_succ, runLabels_cons h6, List.replicate_succ,
    runLabels_cons h7]
  exact ⟨_, rfl, rfl, rfl, rfl⟩

/-- The frame `bs` was appended to the ring at its write cursor, the other bytes of the ring left, and the receiver stands ready
for the next one: `s` is the block before, `t` after. -/
structure FrameTaken (s : State) (bs : List Byte) (t : State) : Prop where
  appended : ∀ k, k < bs.length → t.readByte .ring ((s.rx.wr + k) % s.cfg.ringCap) = bs[k]?
  others : ∀ a, (∀ k, k < bs.length → a ≠ (s.rx.wr + k) % s.cfg.ringCap) → t.readByte .ring a = s.readByte .ring a
  wr : t.rx.wr = (s.rx.wr + bs.length) % s.cfg.ringCap
  drx : t.rx.drx = { en := true, rem := s.cfg.scratchCap }
  frame : t.rx.frame = true
  idle : t.rx.idle = false
  handler : t.ic.h = .none
  rd : t.rx.rd = s.rx.rd
  nc : t.nc = s.nc

/-- The idle handler takes the bytes stored since the count was last reset, when they fit the ring. -/
theorem run_idleHandler {bs : List Byte} (h : HandlerAt s .idle .i1) (hm : s.cfg.rxMode = .dma)
    (hwr : s.rx.wr < s.cfg.ringCap) (hfit : bs.length ≤ s.cfg.ringCap)
    (hlen : s.cfg.scratchCap - s.rx.drx.rem = bs.length) (hscr : ∀ k, k < bs.length → s.readByte .scr k = bs[k]?) :
    ∃ t, runLabels (List.replicate 7 .icstep) s = .next t ∧ FrameTaken s bs t := by
  obtain ⟨hf, hh, -⟩ := id h
  obtain ⟨m, hcopy, hnew, hold⟩ := copyFramePhase (frameSignalled s) ⟨hf, hh, rfl⟩ hwr (Nat.sub_le ..) fun a ha =>
    (congrArg Option.isSome (hscr a (ha.trans_eq hlen))).trans (by simp [ha.trans_eq hlen])
  rw [show (frameSignalled s).ic.len = bs.length from hlen] at hnew hold
  obtain ⟨t, hreturn, hrx, hhandler, hnc⟩ := run_return (s := frameCopied (frameSignalled s) m) ⟨hf, hh, rfl⟩
  have hring : t.rx.ring = m := congrArg Rx.ring hrx
  refine ⟨t, ?_, {
    appended := fun k hk => ?_
    others := fun a ha => ?_
    wr := (congrArg Rx.wr hrx).trans (congrArg (fun n => (s.rx.wr + n) % s.cfg.ringCap) hlen)
    drx := congrArg Rx.drx hrx
    frame := congrArg Rx.frame hrx
    idle := congrArg Rx.idle hrx
    handler := hhandler
    rd := by rw [hrx]; rfl
    nc := hnc }⟩
  · rw [show 7 = 3 + (1 + 3) from rfl, List.replicate_add, runLabels_append (run_signal h hm), List.replicate_add,
      List.replicate_one, List.singleton_append, runLabels_cons hcopy]
    exact hreturn
  · rw [State.readByte, State.mem, hring]
    exact (hnew k hk (hfit.trans (Nat.le_add_left ..))).trans (hscr k hk)
  · rw [State.readByte, State.mem, hring]
    exact hold a ha

/-- Settles O57: the bytes reach the scratch buffer from index 0 on, and the idle handler appends them to the ring. -/
theorem receiveByteAccounting : Obligations.ReceiveByteAccounting := by
  intro s bs hi hf hp hu hm hdrx hempty hwr hscr hring
  have hrecv : Receiving s bs.length :=
    ⟨hu, hm, hf, by rw [hdrx], hempty, by rw [hdrx]; exact hscr, by rw [hdrx]⟩
  obtain ⟨m, b, hbytes, hnew, -⟩ := hrecv.run
  simp only [hdrx, Nat.sub_self, Nat.zero_add] at hnew
  have hidle := run_idle (s := bytesReceived s m b bs.length) hi hf hp hu
  have hlen : s.cfg.scratchCap - (s.rx.drx.rem - bs.length) = bs.length := by
    rw [hdrx]
    exact Nat.sub_sub_self hscr.le
  obtain ⟨t, hhandler, ht⟩ := run_idleHandler
    (s := enterHandler (idleRaised (bytesReceived s m b bs.length)) .idle .i1) ⟨hf, rfl, rfl⟩ hm hwr hring hlen hnew
  refine ⟨t, ?_, ht.appended, ht.others, ht.wr, ht.drx, ht.frame, ht.idle, ht.handler, ht.rd, ht.nc⟩
  rw [frameLabels, runLabels_append hbytes, runLabels_append hidle, hhandler]

end Sys2Proof.Machine

/-! ## The position trackers (43_position R220 to R229, R231 to R234). -/

namespace Sys2Proof.Machine

variable {s : State} {t : BitVec 8} {p : Tracker}

/-! ### The arithmetic of a position (R226, R229, R231) -/

theorem directed_eq (d : Dir) (v : Int) : directed d v = if d = .forward then v else wrap32 (-v) := by
  cases d <;> rfl

theorem wrap32_bounds (v : Int) : -2147483648 ≤ wrap32 v ∧ wrap32 v < 2147483648 :=
  ⟨Int.le_bmod (by decide), Int.bmod_lt (by decide)⟩

theorem wrap32_of_bounds {v : Int} (h : -2147483648 ≤ v ∧ v < 2147483648) : wrap32 v = v :=
  Int.bmod_eq_of_le h.1 h.2

/-- Negation modulo `2^32` is its own inverse, at `-2^31` too. -/
theorem wrap32_neg_wrap32_neg (v : Int) : wrap32 (-wrap32 (-v)) = wrap32 v := by
  simp only [wrap32, Int.bmod_neg_bmod, neg_neg]

theorem toInt_bounds (v : BitVec 32) : -2147483648 ≤ v.toInt ∧ v.toInt < 2147483648 :=
  ⟨v.le_toInt, v.toInt_lt⟩

theorem directed_bounds (d : Dir) (v : BitVec 32) :
    -2147483648 ≤ directed d v.toInt ∧ directed d v.toInt < 2147483648 := by
  cases d with
  | forward => exact toInt_bounds v
  | reversed => exact wrap32_bounds _

theorem directed_directed (d : Dir) (v : BitVec 32) : directed d (directed d v.toInt) = v.toInt := by
  cases d with
  | forward => rfl
  | reversed => exact (wrap32_neg_wrap32_neg _).trans (wrap32_of_bounds (toInt_bounds v))

/-- The quotient of a 32-bit target fits the signed extension (R226). -/
theorem toInt_extOf {tp : Int} (h : -2147483648 ≤ tp ∧ tp < 2147483648) : (extOf tp).toInt = tp / 65536 := by
  rw [extOf, BitVec.toInt_ofInt]
  exact Int.bmod_eq_of_le (by omega) (by omega)

theorem toNat_cntOf (tp : Int) : ((cntOf tp).toNat : Int) = tp % 65536 := by
  rw [cntOf, BitVec.toNat_ofInt]
  omega

/-- The decomposition and the sum are inverse (R232). -/
theorem rawPos_extOf_cntOf {tp : Int} (h : -2147483648 ≤ tp ∧ tp < 2147483648) : rawPos (extOf tp) (cntOf tp) = tp := by
  rw [rawPos, toInt_extOf h, toNat_cntOf]
  exact Int.ediv_mul_add_emod tp 65536

theorem toInt_moveExt (e : BitVec 16) (d : Int) : (moveExt e d).toInt = wrap16s (e.toInt + d) :=
  (BitVec.toInt_ofInt ..).trans Int.bmod_bmod

/-- The wrap of the extension is that of a 16-bit addition (R223, R231). -/
theorem moveExt_toInt (e d : BitVec 16) : moveExt e d.toInt = e + d :=
  BitVec.eq_of_toInt_eq ((toInt_moveExt e _).trans (BitVec.toInt_add e d).symm)

theorem toInt_inferExt (p : Tracker) :
    (inferExt p).toInt = wrap16s (p.ext.toInt + (if p.cnt.toNat ≤ 0x7FFF then 1 else -1)) := by
  unfold inferExt
  split <;> exact toInt_moveExt ..

/-! ### The counter (R220, R221) -/

theorem countUp_eq (p : Tracker) : p.countUp =
    if p.cnt.toNat = 65535 then { p with cnt := 0, uif := true } else { p with cnt := p.cnt + 1 } :=
  if_congr BitVec.toNat_inj.symm rfl rfl

theorem countDown_eq (p : Tracker) : p.countDown =
    if p.cnt.toNat = 0 then { p with cnt := 65535, uif := true } else { p with cnt := p.cnt - 1 } :=
  if_congr BitVec.toNat_inj.symm rfl rfl

theorem exec_cntup (hp : s.tracker? t.toNat = some p) : exec (.cntup t) s =
    .next (if p.inited = true ∧ s.fault = .none then s.setTracker t.toNat p.countUp else s) :=
  (trackerEvent_of_some hp).trans (ite_next (by simp) _)

theorem exec_cntdn (hp : s.tracker? t.toNat = some p) : exec (.cntdn t) s =
    .next (if p.inited = true ∧ s.fault = .none then s.setTracker t.toNat p.countDown else s) :=
  (trackerEvent_of_some hp).trans (ite_next (by simp) _)

/-- Settles O40: both counts stand behind one guard. -/
theorem counterSteps : Obligations.CounterSteps := by
  intro t s p hp
  rw [exec_cntup hp, exec_cntdn hp, ← countUp_eq, ← countDown_eq]
  refine ⟨fun h => ?_, fun h => ?_⟩
  · rw [if_pos h, if_pos h]
    exact ⟨rfl, rfl⟩
  · rw [if_neg h, if_neg h]
    exact ⟨rfl, rfl⟩

/-! ### Acceptance of `SETPOS` and `GETPOS` (R225, R228) -/

/-- A position command that is ready on an initialised tracker is its effect (44_init_config R257). -/
theorem position_ready {o : Out State} (hr : CommandPortReady s) (hp : s.tracker? t.toNat = some p)
    (hi : p.inited = true) : trackerCommand s t (fun p => needsInited p o) = o := by
  rw [trackerCommand_of_some ((cmdReady_iff s).mpr hr) hp, needsInited_of hi]

/-- Settles O21. -/
theorem positionCommandsAccepted : Obligations.PositionCommandsAccepted :=
  fun _ _ _ _ hr hp hi => ⟨position_ready hr hp hi, position_ready hr hp hi⟩

/-! ### The phases of `SETPOS` (R226, R227) -/

/-- A phase of a position command, none of which is ever held (30_encoding R125). -/
theorem exec_ncstep_unheld {op : NcOp} {ph : NcPhase} (h : NormalAt s op ph) (hph : op.hasPhase ph = true)
    (hws : ph ≠ .ws) (hb1 : ph ≠ .b1) : exec .ncstep s = ncPhase s :=
  exec_ncstep_of h hph (ncHeld_of_ne (h.pc_eq ▸ hws) (h.pc_eq ▸ hb1))

theorem exec_ncstep_s1 (h : NormalAt s .setpos .s1) (hp : s.tracker? s.nc.t = some p) : exec .ncstep s =
    .next { s.setTracker s.nc.t { p with ext := extOf (directed p.dir s.nc.val.toInt) } with
      nc := { s.nc with e := cntOf (directed p.dir s.nc.val.toInt), pc := .s2 } } := by
  rw [exec_ncstep_unheld h rfl nofun nofun, ncPhase, h.op_eq, h.pc_eq]
  simp only [phaseS1, hp]

theorem exec_ncstep_s2 (h : NormalAt s .setpos .s2) (hp : s.tracker? s.nc.t = some p) : exec .ncstep s =
    .next (respond (s.setTracker s.nc.t { p with cnt := s.nc.e }) statusOk 0) := by
  rw [exec_ncstep_unheld h rfl nofun nofun, ncPhase, h.op_eq, h.pc_eq]
  simp only [phaseS2, hp]

/-- Settles O27: for the positive divisor floor and mod are the model's quotient and remainder, and both fit their fields. -/
theorem setposPhases : Obligations.SetposPhases := by
  intro s p hp
  refine ⟨fun h => ⟨_, _, ?_, ?_, exec_ncstep_s1 h hp⟩, fun h => exec_ncstep_s2 h hp⟩
  · rw [← directed_eq, Int.fdiv_eq_ediv_of_nonneg _ (by decide)]
    exact toInt_extOf (directed_bounds ..)
  · rw [← directed_eq, Int.fmod_eq_emod_of_nonneg _ (by decide)]
    exact toNat_cntOf _

/-! ### The phases of `GETPOS` (R229) -/

/-- The field that `GETPOS_ORDER` reads first. -/
def firstRead (o : GetposOrder) (p : Tracker) : BitVec 16 := if o = .extFirst then p.ext else p.cnt

/-- With no change of the tracker in between the two reads give its position. -/
theorem rawAtG2_firstRead (o : GetposOrder) (p : Tracker) : rawAtG2 o (firstRead o p) p = rawPos p.ext p.cnt := by
  cases o <;> rfl

theorem rawAtG2_eq (o : GetposOrder) (e : BitVec 16) (p : Tracker) : rawAtG2 o e p =
    if o = .extFirst then e.toInt * 65536 + (p.cnt.toNat : Int) else p.ext.toInt * 65536 + (e.toNat : Int) := by
  cases o <;> rfl

theorem exec_ncstep_g1 (h : NormalAt s .getpos .g1) (hp : s.tracker? s.nc.t = some p) : exec .ncstep s =
    .next { s with nc := { s.nc with e := firstRead s.cfg.getposOrder p, pc := .g2 } } := by
  rw [exec_ncstep_unheld h rfl nofun nofun, ncPhase, h.op_eq, h.pc_eq]
  simp only [phaseG1, hp]
  cases s.cfg.getposOrder <;> rfl

theorem exec_ncstep_g2 (h : NormalAt s .getpos .g2) (hp : s.tracker? s.nc.t = some p) : exec .ncstep s =
    .next (respond s statusOk (posValue (directed p.dir (rawAtG2 s.cfg.getposOrder s.nc.e p)))) := by
  rw [exec_ncstep_unheld h rfl nofun nofun, ncPhase, h.op_eq, h.pc_eq]
  simp only [phaseG2, hp]

/-- Settles O28. -/
theorem getposPhases : Obligations.GetposPhases := by
  intro s p hp
  refine ⟨fun h => exec_ncstep_g1 h hp, fun h => ⟨_, rawAtG2_eq .., ?_⟩⟩
  rw [exec_ncstep_g2 h hp, directed_eq, posValue]

/-! ### The overflow handler (R222 to R224) -/

theorem exec_irqovf_of (hr : s.dispatchReady .ovf = true) (hp : s.tracker? t.toNat = some p) (hi : p.inited = true)
    (hu : p.uif = true) :
    exec (.irqovf t) s = .next { s with ic := { s.ic with h := .ovf, pc := .o1, t := t.toNat } } :=
  (trackerEvent_of_some hp).trans (if_pos (by simp [hr, hi, hu]))

theorem exec_icstep_o1 (h : HandlerAt s .ovf .o1) (hp : s.tracker? s.ic.t = some p) :
    exec .icstep s = .next (setIcPc (s.setTracker s.ic.t { p with ext := inferExt p }) .o2) := by
  rw [exec_icstep_unheld h rfl nofun, icPhase, h.pc_eq]
  simp only [phaseO1, hp]

theorem exec_icstep_o2 (h : HandlerAt s .ovf .o2) (hp : s.tracker? s.ic.t = some p) :
    exec .icstep s = .next (leaveHandler (s.setTracker s.ic.t { p with uif := false })) := by
  rw [exec_icstep_unheld h rfl nofun, icPhase, h.pc_eq]
  simp only [phaseO2, hp]

/-- Settles O36. -/
theorem overflowPhases : Obligations.OverflowPhases :=
  fun _ p hp => ⟨fun h => ⟨inferExt p, toInt_inferExt p, exec_icstep_o1 h hp⟩, fun h => exec_icstep_o2 h hp⟩

end Sys2Proof.Machine

/-! ## Runs of the position trackers: a wrap and its handler, a position set and read back (43_position R233, R234). -/

namespace Sys2Proof.Machine

variable {s : State} {t : BitVec 8} {p : Tracker} {k : Nat}

theorem setTracker_setTracker (s : State) (k : Nat) (p q : Tracker) :
    (s.setTracker k p).setTracker k q = s.setTracker k q := by
  simp only [State.setTracker, List.set_set]

/-! ### A wrap handled at once (R234) -/

/-- The overflow handler of tracker `k` is active at phase `ph`. -/
def overflowAt (s : State) (k : Nat) (ph : IcPhase) : State :=
  { s with ic := { s.ic with h := .ovf, pc := ph, t := k } }

/-- The overflow handler of tracker `k` has returned. -/
def overflowDone (s : State) (k : Nat) : State := { s with ic := { s.ic with h := .none, pc := .o2, t := k } }

/-- Phase `O1` from there (R223). -/
theorem exec_overflowAt_o1 (hp : s.tracker? k = some p) (hf : s.fault = .none) : exec .icstep (overflowAt s k .o1) =
    .next (overflowAt (s.setTracker k { p with ext := inferExt p }) k .o2) :=
  exec_icstep_o1 ⟨hf, rfl, rfl⟩ hp

/-- Phase `O2` from there: the handler returns (R224). -/
theorem exec_overflowAt_o2 (hp : s.tracker? k = some p) (hf : s.fault = .none) : exec .icstep (overflowAt s k .o2) =
    .next (overflowDone (s.setTracker k { p with uif := false }) k) :=
  exec_icstep_o2 ⟨hf, rfl, rfl⟩ hp

/-- The overflow handler of a requesting tracker runs to its end: the extension is moved and the flag acknowledged. -/
theorem run_overflow (hh : s.ic.h = .none) (hf : s.fault = .none) (hfree : PriorityFree s)
    (hp : s.tracker? t.toNat = some p) (hi : p.inited = true) (hu : p.uif = true) :
    runLabels [.irqovf t, .icstep, .icstep] s =
      .next (overflowDone (s.setTracker t.toNat { p with ext := inferExt p, uif := false }) t.toNat) := by
  have hd : exec (.irqovf t) s = .next (overflowAt s t.toNat .o1) :=
    exec_irqovf_of (dispatchReady_of hh hf hfree .ovf) hp hi hu
  have hp' := tracker_setTracker_same s (q := { p with ext := inferExt p }) hp
  rw [runLabels_cons hd, runLabels_cons (exec_overflowAt_o1 hp hf), runLabels_cons (exec_overflowAt_o2 hp' hf),
    setTracker_setTracker, runLabels]

/-- A boundary step `l` that leaves its tracker requesting, as `q`, and then the handler. -/
theorem run_wrap {l : Instr} {q : Tracker} (hh : s.ic.h = .none) (hf : s.fault = .none) (hfree : PriorityFree s)
    (hp : s.tracker? t.toNat = some p) (hl : exec l s = .next (s.setTracker t.toNat q)) (hi : q.inited = true)
    (hu : q.uif = true) :
    runLabels [l, .irqovf t, .icstep, .icstep] s =
      .next (overflowDone (s.setTracker t.toNat { q with ext := inferExt q, uif := false }) t.toNat) := by
  rw [runLabels_cons hl, run_overflow (s := s.setTracker t.toNat q) hh hf hfree (tracker_setTracker_same s hp) hi hu,
    setTracker_setTracker]

/-- A counter in the lower half: the wrap was forward (R223). -/
theorem inferExt_of_low (h : p.cnt.toNat ≤ 0x7FFF) : inferExt p = p.ext + 1 :=
  (if_pos h).trans (moveExt_toInt p.ext 1)

/-- A counter in the upper half: the wrap was backward (R223). -/
theorem inferExt_of_high (h : ¬ p.cnt.toNat ≤ 0x7FFF) : inferExt p = p.ext - 1 :=
  (if_neg h).trans ((moveExt_toInt p.ext (-1)).trans (BitVec.sub_eq_add_neg ..).symm)

/-- An extension below its upper end moves up by one. -/
theorem toInt_add_one {e : BitVec 16} (h : e.toInt ≠ 32767) : (e + 1).toInt = e.toInt + 1 := by
  have hlow := e.le_toInt
  have hhigh := e.toInt_lt
  rw [BitVec.toInt_add, show (1 : BitVec 16).toInt = 1 from rfl]
  exact Int.bmod_eq_of_le (by omega) (by omega)

/-- An extension above its lower end moves down by one. -/
theorem toInt_sub_one {e : BitVec 16} (h : e.toInt ≠ -32768) : (e - 1).toInt = e.toInt - 1 := by
  have hlow := e.le_toInt
  have hhigh := e.toInt_lt
  rw [BitVec.toInt_sub, show (1 : BitVec 16).toInt = 1 from rfl]
  exact Int.bmod_eq_of_le (by omega) (by omega)

theorem run_cntup_wrap (hh : s.ic.h = .none) (hf : s.fault = .none) (hfree : PriorityFree s)
    (hp : s.tracker? t.toNat = some p) (hi : p.inited = true) (hc : p.cnt.toNat = 65535) :
    runLabels [.cntup t, .irqovf t, .icstep, .icstep] s = .next (overflowDone
      (s.setTracker t.toNat { p with cnt := 0, ext := p.ext + 1, uif := false }) t.toNat) := by
  have hup := exec_cntup hp
  rw [if_pos ⟨hi, hf⟩, countUp_eq, if_pos hc] at hup
  rw [run_wrap hh hf hfree hp hup hi rfl, inferExt_of_low (Nat.zero_le _)]

theorem run_cntdn_wrap (hh : s.ic.h = .none) (hf : s.fault = .none) (hfree : PriorityFree s)
    (hp : s.tracker? t.toNat = some p) (hi : p.inited = true) (hc : p.cnt.toNat = 0) :
    runLabels [.cntdn t, .irqovf t, .icstep, .icstep] s = .next (overflowDone
      (s.setTracker t.toNat { p with cnt := 65535, ext := p.ext - 1, uif := false }) t.toNat) := by
  have hdn := exec_cntdn hp
  rw [if_pos ⟨hi, hf⟩, countDown_eq, if_pos hc] at hdn
  rw [run_wrap hh hf hfree hp hdn hi rfl, inferExt_of_high (by decide : ¬ (65535 : BitVec 16).toNat ≤ 0x7FFF)]

/-- Settles O59: the wrapped counter stands in the half that tells the handler the direction. -/
theorem overflowContinuity : Obligations.OverflowContinuity := by
  intro s t p hh hf hfree hp hi
  refine ⟨fun hc => ⟨_, run_cntup_wrap hh hf hfree hp hi hc, rfl, fun hend => ?_⟩,
    fun hc => ⟨_, run_cntdn_wrap hh hf hfree hp hi hc, rfl, fun hend => ?_⟩⟩
  · rw [toInt_add_one hend, hc, show (0 : BitVec 16).toNat = 0 from rfl]
    omega
  · rw [toInt_sub_one hend, hc, show (65535 : BitVec 16).toNat = 65535 from rfl]
    omega

/-! ### A position set and read back (R233) -/

/-- The tracker at the target `v`. -/
def Tracker.placed (p : Tracker) (v : BitVec 32) : Tracker :=
  { p with ext := extOf (directed p.dir v.toInt), cnt := cntOf (directed p.dir v.toInt) }

theorem logical_placed (p : Tracker) (v : BitVec 32) : (p.placed v).logical = v.toInt := by
  rw [Tracker.logical, Tracker.placed, rawPos_extOf_cntOf (directed_bounds ..), directed_directed]

/-- `SETPOS k, v` is in progress at phase `ph`, the count to load latched as `e`. -/
def setposAt (s : State) (k : Nat) (v : BitVec 32) (e : BitVec 16) (ph : NcPhase) : State :=
  { s with nc := { s.nc with op := .setpos, t := k, val := v, e := e, pc := ph } }

/-- `GETPOS k` is in progress at phase `ph`, the first read latched as `e`. -/
def getposAt (s : State) (k : Nat) (e : BitVec 16) (ph : NcPhase) : State :=
  { s with nc := { s.nc with op := .getpos, t := k, e := e, pc := ph } }

/-- Phase `S1` from there: the extension is written before the counter (R226). -/
theorem exec_setposAt_s1 {v : BitVec 32} {e : BitVec 16} (hp : s.tracker? k = some p) (hh : s.ic.h = .none)
    (hf : s.fault = .none) : exec .ncstep (setposAt s k v e .s1) =
      .next (setposAt (s.setTracker k { p with ext := (p.placed v).ext }) k v (p.placed v).cnt .s2) :=
  exec_ncstep_s1 ⟨hh, hf, rfl, rfl⟩ hp

theorem exec_setposAt_s2 {v : BitVec 32} {e : BitVec 16} (hp : s.tracker? k = some p) (hh : s.ic.h = .none)
    (hf : s.fault = .none) : exec .ncstep (setposAt s k v e .s2) =
      .next (respond (setposAt (s.setTracker k { p with cnt := e }) k v e .s2) statusOk 0) :=
  exec_ncstep_s2 (s := setposAt s k v e .s2) ⟨hh, hf, rfl, rfl⟩ hp

/-- `SETPOS` from its acceptance to its response. -/
theorem run_setpos (hr : CommandPortReady s) (hp : s.tracker? t.toNat = some p) (hi : p.inited = true) (v : BitVec 32) :
    runLabels [.setpos t v, .ncstep, .ncstep] s = .next (respond
      (setposAt (s.setTracker t.toNat (p.placed v)) t.toNat v (p.placed v).cnt .s2) statusOk 0) := by
  obtain ⟨-, hh, hf⟩ := id hr
  have h0 : exec (.setpos t v) s = .next (setposAt s t.toNat v s.nc.e .s1) := position_ready hr hp hi
  have hp' := tracker_setTracker_same s (q := { p with ext := (p.placed v).ext }) hp
  rw [runLabels_cons h0, runLabels_cons (exec_setposAt_s1 hp hh hf), runLabels_cons (exec_setposAt_s2 hp' hh hf),
    setTracker_setTracker, runLabels, Tracker.placed]

theorem exec_getposAt_g1 {e : BitVec 16} (hp : s.tracker? k = some p) (hh : s.ic.h = .none) (hf : s.fault = .none) :
    exec .ncstep (getposAt s k e .g1) = .next (getposAt s k (firstRead s.cfg.getposOrder p) .g2) :=
  exec_ncstep_g1 ⟨hh, hf, rfl, rfl⟩ hp

theorem exec_getposAt_g2 {e : BitVec 16} (hp : s.tracker? k = some p) (hh : s.ic.h = .none) (hf : s.fault = .none) :
    exec .ncstep (getposAt s k e .g2) = .next (respond (getposAt s k e .g2) statusOk
      (posValue (directed p.dir (rawAtG2 s.cfg.getposOrder e p)))) :=
  exec_ncstep_g2 (s := getposAt s k e .g2) ⟨hh, hf, rfl, rfl⟩ hp

/-- `GETPOS` from its acceptance to its response: undisturbed, either read order gives the logical position. -/
theorem run_getpos (hr : CommandPortReady s) (hp : s.tracker? t.toNat = some p) (hi : p.inited = true) :
    runLabels [.getpos t, .ncstep, .ncstep] s = .next (respond
      (getposAt s t.toNat (firstRead s.cfg.getposOrder p) .g2) statusOk (posValue p.logical)) := by
  obtain ⟨-, hh, hf⟩ := id hr
  have h0 : exec (.getpos t) s = .next (getposAt s t.toNat s.nc.e .g1) := position_ready hr hp hi
  rw [runLabels_cons h0, runLabels_cons (exec_getposAt_g1 hp hh hf), runLabels_cons (exec_getposAt_g2 hp hh hf),
    rawAtG2_firstRead, runLabels, Tracker.logical]

/-- Settles O58: the position read is the one set, and its 32-bit form is `v` itself. -/
theorem positionRoundTrip : Obligations.PositionRoundTrip := by
  intro s t v p hr hp hi
  obtain ⟨-, hh, hf⟩ := id hr
  have hset := run_setpos hr hp hi v
  have hp' := tracker_setTracker_same s (q := p.placed v) hp
  have hget := run_getpos
    (s := respond (setposAt (s.setTracker t.toNat (p.placed v)) t.toNat v (p.placed v).cnt .s2) statusOk 0)
    ⟨rfl, hh, hf⟩ hp' hi
  refine ⟨_, _, (runLabels_append hset).trans hget, ?_, hp', logical_placed p v, rfl, rfl⟩
  rw [logical_placed, posValue, BitVec.ofInt_toInt]
  exact List.append_assoc s.obs.resp [respWord statusOk 0] [respWord statusOk v]

end Sys2Proof.Machine

/-! ## Initialisation and configuration commands (44_init_config R250, R252, R254, R255; 43_position R230). -/

namespace Sys2Proof.Machine

variable {s : State}

/-! ### `INIT` and `SETRXCB` (R250, R252) -/

/-- A command that needs no initialisation is its effect once the port is ready (44_init_config R257). -/
theorem command_ready {o : Out State} (hr : CommandPortReady s) : whenReady s o = o :=
  whenReady_of ((cmdReady_iff s).mpr hr)

/-- Settles O14: a first `INIT` by the receive mode, which decides whether the receive DMA engine starts. -/
theorem initResult : Obligations.InitResult := by
  intro baud parity hd s hr
  refine ⟨fun hu => (command_ready hr).trans ?_, fun hu => (command_ready hr).trans (if_pos hu)⟩
  rw [if_neg (ne_true_of_eq_false hu)]
  cases s.cfg.rxMode <;> rfl

/-- Settles O17. -/
theorem setrxcbResult : Obligations.SetrxcbResult := fun _ _ _ hr => command_ready hr

/-! ### One tracker: `POSINIT` and `SETDIR` (R254, 43_position R230) -/

theorem markInited_of_some {k : Nat} {p : Tracker} (hp : s.tracker? k = some p) :
    markInited s k = s.setTracker k { p with inited := true } := by
  rw [markInited, hp]

theorem markInited_of_none {k : Nat} (hp : s.tracker? k = none) : markInited s k = s := by
  rw [markInited, hp]

/-- Settles O19: both commands replace the tracker that the word names. -/
theorem trackerConfigCommands : Obligations.TrackerConfigCommands := by
  intro t d s p hr hp
  have hready := (cmdReady_iff s).mpr hr
  refine ⟨(trackerCommand_of_some hready hp).trans ?_, trackerCommand_of_some hready hp⟩
  rw [markInited_of_some hp]
  rfl

/-! ### Every registered tracker: `INITALL` (R255) -/

/-- What becomes of tracker `j` when the trackers below `n` that `ks` names are initialised. -/
def initedIn (n : Nat) (ks : List Nat) (j : Nat) (p : Tracker) : Tracker :=
  if j < n ∧ j ∈ ks then { p with inited := true } else p

theorem initedIn_of_mem {n j : Nat} {ks : List Nat} (hn : j < n) (hj : j ∈ ks) (p : Tracker) :
    initedIn n ks j p = { p with inited := true } := if_pos ⟨hn, hj⟩

theorem initedIn_of_not {n j : Nat} {ks : List Nat} (h : ¬ (j < n ∧ j ∈ ks)) : initedIn n ks j = id :=
  funext fun _ => if_neg h

/-- Initialising one tracker and then others is initialising them all: a second initialisation changes nothing. -/
theorem initedIn_cons (n k : Nat) (ks : List Nat) (j : Nat) :
    initedIn n ks j ∘ initedIn n [k] j = initedIn n (k :: ks) j := by
  by_cases hk : j < n ∧ j = k
  · obtain ⟨hn, rfl⟩ := hk
    funext p
    rw [Function.comp_apply, initedIn_of_mem hn List.mem_cons_self, initedIn_of_mem hn List.mem_cons_self, initedIn, ite_self]
  · have hmem : j < n ∧ j ∈ k :: ks ↔ j < n ∧ j ∈ ks := by rw [List.mem_cons]; tauto
    rw [initedIn_of_not (ks := [k]) (by simpa using hk), Function.comp_id]
    funext p
    simp only [initedIn, hmem]

theorem tracker?_eq_some_iff {k : Nat} {p : Tracker} :
    s.tracker? k = some p ↔ k < s.cfg.ntrk ∧ s.pos[k]? = some p := by
  simp [State.tracker?]

/-- One initialisation, at every index of the tracker list. -/
theorem markInited_pos (s : State) (k j : Nat) :
    (markInited s k).pos[j]? = (s.pos[j]?).map (initedIn s.cfg.ntrk [k] j) := by
  cases hp : s.tracker? k with
  | some p =>
    obtain ⟨hn, hk⟩ := tracker?_eq_some_iff.mp hp
    rw [markInited_of_some hp]
    by_cases hj : j = k
    · subst hj
      obtain ⟨hlen, -⟩ := List.getElem?_eq_some_iff.mp hk
      rw [hk, Option.map_some, initedIn_of_mem hn List.mem_cons_self]
      exact List.getElem?_set_self hlen
    · rw [initedIn_of_not (by simp [hj]), Option.map_id]
      exact List.getElem?_set_ne (Ne.symm hj)
  | none =>
    rw [markInited_of_none hp]
    by_cases hj : j < s.cfg.ntrk ∧ j ∈ [k]
    · obtain ⟨hn, hmem⟩ := hj
      obtain rfl := List.mem_singleton.mp hmem
      have hnone : s.pos[j]? = none := (if_pos hn).symm.trans hp
      rw [hnone, Option.map_none]
    · rw [initedIn_of_not hj, Option.map_id, id]

/-- Initialisations in turn, at every index of the tracker list. -/
theorem foldl_markInited_pos (ks : List Nat) : ∀ (s : State) (j : Nat),
    (ks.foldl markInited s).pos[j]? = (s.pos[j]?).map (initedIn s.cfg.ntrk ks j) := by
  induction ks with
  | nil => intro s j; rw [initedIn_of_not (by simp), Option.map_id, List.foldl_nil, id]
  | cons k ks ih =>
    intro s j
    have hcfg : (markInited s k).cfg = s.cfg := by
      obtain ⟨l, hl, -⟩ := markInited_eq s k
      rw [hl]
    rw [List.foldl_cons, ih, hcfg, markInited_pos, Option.map_map, initedIn_cons]

/-- Settles O20: by whether the registry is empty; the initialisations in turn are those of the trackers the slots name. -/
theorem initallResult : Obligations.InitallResult := by
  intro s hr
  refine ⟨fun hn => (command_ready hr).trans (if_pos hn), fun hn => ?_⟩
  obtain ⟨ps, hps, -⟩ := foldl_markInited_eq (s.reg.slots.take s.reg.n) s
  refine ⟨ps, (command_ready hr).trans ((if_neg hn).trans ?_), fun k => ?_⟩
  · rw [hps]
  · have hpos := foldl_markInited_pos (s.reg.slots.take s.reg.n) s k
    rwa [hps] at hpos

end Sys2Proof.Machine

/-! ## Interrupt entry and the two contexts (60_exceptions R270, R275, R279): what a dispatch writes, and what the steps of either context
never write. The parameters, the registry and the memories are the frame and the stores that every label has; each context adds a frame of
its own. -/

namespace Sys2Proof.Machine

variable {s t : State}

/-! ### The dispatches (R270, R275) -/

/-- A dispatch whose source is pending and may be dispatched is its effect. -/
theorem dispatch_taken {src : IrqSource} {o : Out State} (hr : s.dispatchReady src = true)
    (hq : s.irqRequested src = true) : (if s.dispatchReady src && s.irqRequested src then o else notTaken s) = o :=
  if_pos (by simp [hr, hq])

/-- Settles O41: with no priority order the pending flag, the initialisation and the mode are all that a dispatch asks for. -/
theorem dispatchEnters : Obligations.DispatchEnters := by
  intro s hh hf hfree
  have hr := dispatchReady_of hh hf hfree
  exact ⟨fun hu hm hp => dispatch_taken (hr .txc) (by simp [State.irqRequested, hu, hm, hp]),
    fun hu hp => exec_irqidle_of (hr .idle) hu hp,
    fun hu hm hp => dispatch_taken (hr .rxne) (by simp [State.irqRequested, hu, hm, hp]),
    fun hu hp => dispatch_taken (hr .ore) (by simp [State.irqRequested, hu, hp]),
    fun _ _ hk hi hu => exec_irqovf_of (hr .ovf) hk hi hu⟩

/-! ### A part of every tracker that a write leaves -/

/-- A tracker replaced by one that agrees with it in `f` leaves `f` of every tracker. -/
theorem map_setTracker_pos {α : Type} (f : Tracker → α) {k : Nat} {p q : Tracker} (hp : s.tracker? k = some p)
    (hf : f q = f p) (j : Nat) : ((s.setTracker k q).pos[j]?).map f = (s.pos[j]?).map f := by
  obtain ⟨-, hk⟩ := tracker?_eq_some_iff.mp hp
  rw [setTracker_pos]
  by_cases hj : j = k
  · subst hj
    obtain ⟨hlen, -⟩ := List.getElem?_eq_some_iff.mp hk
    rw [List.getElem?_set_self hlen, hk, Option.map_some, Option.map_some, hf]
  · rw [List.getElem?_set_ne (Ne.symm hj)]

/-- Initialisation sets no update flag and clears none (44_init_config R254). -/
theorem uif_initedIn (n : Nat) (ks : List Nat) (j : Nat) (p : Tracker) : (initedIn n ks j p).uif = p.uif := by
  unfold initedIn
  split <;> rfl

/-! ### The interrupt context (R279) -/

/-- What a handler step leaves, beside what every label leaves. -/
structure InterruptFrame (s t : State) : Prop where
  uartInit : t.uartInit = s.uartInit
  nc : t.nc = s.nc
  inp : t.inp = s.inp
  busy : ∀ i, (t.buf i).busy = (s.buf i).busy
  tdr : t.tx.tdr = s.tx.tdr
  txe : t.tx.txe = s.tx.txe
  tc : t.tx.tc = s.tx.tc
  hd : t.tx.hd = s.tx.hd
  rd : t.rx.rd = s.rx.rd
  rdr : t.rx.rdr = s.rx.rdr
  cbReg : t.rx.cbReg = s.rx.cbReg
  qAtt : t.rx.qAtt = s.rx.qAtt
  trackers : ∀ k : Nat, (t.pos[k]?).map (fun p : Tracker => (p.cnt, p.dir, p.inited)) =
    (s.pos[k]?).map (fun p : Tracker => (p.cnt, p.dir, p.inited))
  txStream : t.obs.txStream = s.obs.txStream
  diagLog : t.obs.diagLog = s.obs.diagLog
  resp : t.obs.resp = s.obs.resp
  evq : s.evq ≤ t.evq

theorem InterruptFrame.refl (s : State) : InterruptFrame s s :=
  ⟨rfl, rfl, rfl, fun _ => rfl, rfl, rfl, rfl, rfl, rfl, rfl, rfl, rfl, fun _ => rfl, rfl, rfl, rfl, Nat.le_refl _⟩

/-- The finished Buffer is emptied, and stays as busy as it was (40_transmit R162). -/
theorem interruptFrame_setFill (s : State) (i : BufId) (n : Nat) :
    InterruptFrame s (s.setBuf i { s.buf i with fill := n }) := by
  cases i <;> exact { InterruptFrame.refl s with busy := fun j => by cases j <;> rfl }

/-- A handler step on a tracker writes its extension or its update flag (43_position R223, R224). -/
theorem interruptFrame_setTracker {k : Nat} {p q : Tracker} (hp : s.tracker? k = some p)
    (hq : (q.cnt, q.dir, q.inited) = (p.cnt, p.dir, p.inited)) : InterruptFrame s (s.setTracker k q) :=
  { InterruptFrame.refl s with trackers := map_setTracker_pos _ hp hq }

theorem interruptFrame_icPhase (s : State) : Ensures True (InterruptFrame s) (icPhase s) := by
  have hs := InterruptFrame.refl s
  unfold icPhase
  cases s.ic.pc with
  | t1 | t5 | i1 | i2 | i3 | i5 | i6 | e1 => exact { hs with }
  | t2 =>
    simp only [phaseT2]
    cases s.tx.dtx.src <;> exact { hs with }
  | t3 => exact { interruptFrame_setFill s s.ic.done 0 with }
  | t4 => exact .ite (fun _ => { hs with }) fun _ => { hs with }
  | t6 =>
    simp only [phaseT6]
    split <;> exact { hs with }
  | i4 =>
    simp only [phaseI4]
    cases hc : copyFrame s 0 s.ic.len with
    | error f => trivial
    | ok s1 =>
      obtain ⟨hs1, -⟩ := copyFrame_frame hc
      rw [hs1]
      exact { hs with }
  | i7 =>
    simp only [phaseI7]
    cases s.rx.cbReg with
    | false => exact { hs with }
    | true =>
      cases s.rx.qAtt with
      | false => exact { hs with }
      | true => exact { hs with evq := Nat.le_succ s.evq }
  | n1 =>
    simp only [phaseN1]
    cases hp : ringPush s s.rx.rdr with
    | error f => trivial
    | ok s1 =>
      obtain ⟨-, rfl⟩ := ringPush_ok hp
      exact { hs with }
  | o1 =>
    simp only [phaseO1]
    cases hp : s.tracker? s.ic.t with
    | none => exact hs
    | some p => exact { interruptFrame_setTracker hp (q := { p with ext := inferExt p }) rfl with }
  | o2 =>
    simp only [phaseO2]
    cases hp : s.tracker? s.ic.t with
    | none => exact hs
    | some p => exact { interruptFrame_setTracker hp (q := { p with uif := false }) rfl with }

/-- A handler step stores in the ring alone (20_memory R96). -/
theorem readByte_icstep (h : exec .icstep s = .next t) {sp : Space} (hsp : sp ≠ .ring) (a : Nat) :
    t.readByte sp a = s.readByte sp a :=
  ((storesAt_exec .icstep s).next h sp a).resolve_right fun ⟨_, hring, _⟩ => hsp hring

/-- Settles O43: phase by phase, the memories by where `ICSTEP` stores. -/
theorem interruptContextFrame : Obligations.InterruptContextFrame := by
  intro s t hst
  have hi : Ensures True (InterruptFrame s) (exec .icstep s) := .guarded (.refl s) fun _ => interruptFrame_icPhase s
  have f := hi.next hst
  have k := (framed_exec .icstep s).next hst
  exact ⟨k.cfg, f.uartInit, k.reg, f.nc, f.inp, f.busy, fun _ a hsp => readByte_icstep hst hsp a, f.tdr, f.txe, f.tc, f.hd,
    f.rd, f.rdr, f.cbReg, f.qAtt, f.trackers, f.txStream, f.diagLog, f.resp, f.evq⟩

/-! ### The normal context (R279) -/

/-- What a host command, `NCSTEP` or `EQDISP` leaves, beside what every label leaves. -/
structure NormalFrame (s t : State) : Prop where
  ic : t.ic = s.ic
  fault : t.fault = s.fault
  tcif : t.tx.tcif = s.tx.tcif
  wr : t.rx.wr = s.rx.wr
  rdr : t.rx.rdr = s.rx.rdr
  rxne : t.rx.rxne = s.rx.rxne
  idle : t.rx.idle = s.rx.idle
  ore : t.rx.ore = s.rx.ore
  updateFlags : ∀ k : Nat, (t.pos[k]?).map (fun p : Tracker => p.uif) = (s.pos[k]?).map (fun p : Tracker => p.uif)
  fill : ∀ j, (s.buf j).fill ≤ (t.buf j).fill
  inFlight : s.tx.inFlight = true → t.tx.inFlight = true
  engine : s.tx.dtx.en = true → t.tx.dtx.en = true
  frame : t.rx.frame = true → s.rx.frame = true
  txStream : t.obs.txStream = s.obs.txStream
  evq : t.evq ≤ s.evq

theorem NormalFrame.refl (s : State) : NormalFrame s s :=
  ⟨rfl, rfl, rfl, rfl, rfl, rfl, rfl, rfl, fun _ => rfl, fun _ => Nat.le_refl _, id, id, id, rfl, Nat.le_refl _⟩

/-- A Buffer is set with its fill cursor not lowered. -/
theorem NormalFrame.setBuf (h : NormalFrame s t) (i : BufId) (b : TxBuf) (hb : (t.buf i).fill ≤ b.fill) :
    NormalFrame s (t.setBuf i b) := by
  have hfill : ∀ j, (s.buf j).fill ≤ ((t.setBuf i b).buf j).fill := fun j => (h.fill j).trans (by
    rw [buf_setBuf_fill]
    split
    · rename_i hj; rwa [hj]
    · exact Nat.le_refl _)
  cases i <;> exact { h with fill := hfill }

/-- A busy flag is no cursor (40_transmit R144, R148). -/
theorem NormalFrame.setBusy (h : NormalFrame s t) (i : BufId) (b : Bool) :
    NormalFrame s (t.setBuf i { t.buf i with busy := b }) := h.setBuf i _ (Nat.le_refl _)

/-- A store in a Buffer's space moves no cursor. -/
theorem normalFrame_setMem (s : State) (i : BufId) (m : Memory) : NormalFrame s (s.setMem i.space m) := by
  have hfill : ∀ j, (s.buf j).fill ≤ ((s.setMem i.space m).buf j).fill := fun j => (buf_setMem_fill s i.space m j).ge
  cases i <;> exact { NormalFrame.refl s with fill := hfill }

/-- A normal-context step on a tracker leaves its update flag (43_position R226, R227, R230). -/
theorem normalFrame_setTracker {k : Nat} {p q : Tracker} (hp : s.tracker? k = some p) (hq : q.uif = p.uif) :
    NormalFrame s (s.setTracker k q) :=
  { NormalFrame.refl s with updateFlags := map_setTracker_pos _ hp hq }

/-- Trackers initialised in turn keep their update flags (44_init_config R254, R255). -/
theorem normalFrame_markInited (s : State) (ks : List Nat) : NormalFrame s (ks.foldl markInited s) := by
  have hflags : ∀ k : Nat, ((ks.foldl markInited s).pos[k]?).map (fun p : Tracker => p.uif) =
      (s.pos[k]?).map (fun p : Tracker => p.uif) := fun k => by
    rw [foldl_markInited_pos, Option.map_map]
    exact congrArg (Option.map · _) (funext (uif_initedIn _ _ _))
  obtain ⟨l, hl, -⟩ := foldl_markInited_eq ks s
  rw [hl] at hflags ⊢
  exact { NormalFrame.refl s with updateFlags := hflags }

theorem normalFrame_writePhase (s : State) : Ensures True (NormalFrame s) (writePhase s) := by
  have hs := NormalFrame.refl s
  unfold writePhase
  cases s.nc.pc with
  | w0 | b0 => exact .ite (fun _ => { hs with }) fun _ => { hs with }
  | ws =>
    have hsel : NormalFrame s { s with nc := { s.nc with tgt := s.chosen } } := { hs with }
    exact .ite (fun _ => { hsel.setBusy s.chosen true with }) fun _ => { hs with }
  | w1 => exact { hs.setBusy s.nc.tgt true with }
  | w3 =>
    refine .ite (fun _ => ?_) fun _ => trivial
    cases hw : memWriteBytes s s.nc.tgt.space (s.buf s.nc.tgt).fill s.nc.chunkBytes with
    | error f => trivial
    | ok s1 =>
      have h1 : NormalFrame s s1 := by
        rw [memWriteBytes_eq_setMem hw]
        exact normalFrame_setMem s s.nc.tgt _
      have hup : (s1.buf s.nc.tgt).fill ≤ (s.buf s.nc.tgt).fill + s.nc.chunk := by
        rw [memWriteBytes_eq_setMem hw, buf_setMem_fill]
        exact Nat.le_add_right _ _
      exact { h1.setBuf s.nc.tgt _ hup with }
  | w4 => exact .ite (fun _ => { hs with }) fun _ => { hs with inFlight := fun _ => rfl, engine := fun _ => rfl }
  | w5 => exact { hs.setBusy s.nc.tgt false with }
  | b2 =>
    simp only [phaseB2]
    cases s.nc.data[s.nc.ip]? with
    | none => trivial
    | some b => exact { hs with }
  | w2 | b1 | s1 | s2 | g1 | g2 => exact { hs with }

/-- The phases of `SETPOS` write the extension and the count, those of `GETPOS` no tracker (43_position R226 to R229). -/
theorem normalFrame_positionPhase (hop : s.nc.op ≠ .write) : Ensures True (NormalFrame s) (ncPhase s) := by
  have hs := NormalFrame.refl s
  unfold ncPhase
  cases h : s.nc.op with
  | none => exact hs
  | write => exact absurd h hop
  | setpos =>
    cases s.nc.pc with
    | s1 =>
      simp only [phaseS1]
      cases hp : s.tracker? s.nc.t with
      | none => exact hs
      | some p =>
        exact { normalFrame_setTracker hp (q := { p with ext := extOf (directed p.dir s.nc.val.toInt) }) rfl with }
    | s2 =>
      simp only [phaseS2]
      cases hp : s.tracker? s.nc.t with
      | none => exact hs
      | some p => exact { normalFrame_setTracker hp (q := { p with cnt := s.nc.e }) rfl with }
    | _ => exact hs
  | getpos =>
    cases s.nc.pc with
    | g1 | g2 =>
      simp only [phaseG1, phaseG2]
      cases s.tracker? s.nc.t <;> exact { hs with }
    | _ => exact hs

theorem normalFrame_ncPhase (s : State) : Ensures True (NormalFrame s) (ncPhase s) := by
  by_cases hop : s.nc.op = .write
  · rw [ncPhase, hop]
    exact normalFrame_writePhase s
  · exact normalFrame_positionPhase hop

theorem normalFrame_host {i : Instr} (hi : i.isHost = true) (s : State) : Ensures True (NormalFrame s) (exec i s) := by
  have hs := NormalFrame.refl s
  cases i with
  | init baud parity hd => exact .whenReady hs fun _ => .ite (fun _ => trivial) fun _ => { hs with }
  | write n => exact .whenReady hs fun _ => .needsUart (.guarded hs fun _ => { hs with })
  | isbusy => exact .whenReady hs fun _ => .needsUart { hs with }
  | chkfrm => exact .whenReady hs fun _ => .needsUart (.ite (fun _ => { hs with frame := nofun }) fun _ => { hs with })
  | setrxcb cb q => exact .whenReady hs fun _ => { hs with }
  | rxpop =>
    refine .whenReady hs fun _ => .needsUart (.ite (fun _ => { hs with }) fun _ => ?_)
    cases memRead s .ring s.rx.rd with
    | error f => trivial
    | ok b => exact { hs with }
  | posinit t =>
    exact .trackerCommand hs (fun _ => { hs with }) fun _ _ => { normalFrame_markInited s [t.toNat] with }
  | initall =>
    exact .whenReady hs fun _ => .ite (fun _ => { hs with }) fun _ => { normalFrame_markInited s _ with }
  | setdir t sign =>
    refine .whenReady hs fun _ => ?_
    cases hp : s.tracker? t.toNat with
    | none => exact { hs with }
    | some p => exact { normalFrame_setTracker hp (q := { p with dir := sign }) rfl with }
  | setpos t target | getpos t => exact .trackerCommand hs (fun _ => { hs with }) fun _ _ => .needsInited { hs with }
  | _ => cases hi

theorem normalFrame_exec {i : Instr} (hi : i.isHost = true ∨ i = .ncstep ∨ i = .eqdisp) (s : State) :
    Ensures True (NormalFrame s) (exec i s) := by
  rcases hi with hi | rfl | rfl
  · exact normalFrame_host hi s
  · exact .guarded (.refl s) fun _ => normalFrame_ncPhase s
  · exact .guarded (.refl s) fun _ => { NormalFrame.refl s with evq := Nat.sub_le _ _ }

/-- In normal context only a transmit Buffer is stored to (20_memory R96). -/
theorem readByte_normal {i : Instr} (hi : i.isHost = true ∨ i = .ncstep ∨ i = .eqdisp) (h : exec i s = .next t)
    {sp : Space} (hsp : sp = .ring ∨ sp = .scr) (a : Nat) : t.readByte sp a = s.readByte sp a := by
  refine ((storesAt_exec i s).next h sp a).resolve_right fun hstore => ?_
  rcases hi with hi | rfl | rfl
  · cases i with
    | init | write | isbusy | chkfrm | setrxcb | rxpop | posinit | initall | setdir | setpos | getpos => exact hstore
    | _ => cases hi
  · obtain ⟨-, -, hbuf, -⟩ := hstore
    cases htgt : s.nc.tgt <;> simp [hbuf, htgt, BufId.space] at hsp
  · exact hstore

/-- Settles O44: command by command and phase by phase, the memories by where the label stores. -/
theorem normalContextFrame : Obligations.NormalContextFrame := by
  intro i s t hi hst
  have f := (normalFrame_exec hi s).next hst
  have k := (framed_exec i s).next hst
  exact ⟨k.cfg, k.reg, f.ic, f.fault, f.tcif, fun _ a hsp => readByte_normal hi hst hsp a, f.wr, f.rdr, f.rxne, f.idle, f.ore,
    f.updateFlags, f.fill, f.inFlight, f.engine, f.frame, f.txStream, f.evq⟩

end Sys2Proof.Machine

/-! ## Reset (70_reset_and_hazards R300, R301): what the pin `rst` leaves, and what a host can do after it. -/

namespace Sys2Proof.Machine

variable {s : State} {c : Cfg}

/-! ### The pin `rst` (R300) -/

/-- The pin `rst` at the port (entries 2, 17). -/
theorem step_rst {es : List PortEvent} (hc : s.cfg.ok = true) (he : s.inp.events = .rst :: es) :
    step s = .next (resetBlock { s with inp := { s.inp with events := es } }) := by
  simp only [step, (configRefusal_none_iff _).mpr hc, fetchEvent, he]

@[simp] theorem buf_resetBlock (s : State) (i : BufId) : (resetBlock s).buf i = TxBuf.reset := by cases i <;> rfl

@[simp] theorem readByte_resetBlock (s : State) (sp : Space) (a : Nat) : (resetBlock s).readByte sp a = none := by
  cases sp <;> rfl

/-- Settles O10. -/
theorem rstPinResets : Obligations.RstPinResets := by
  intro s es hc he
  refine ⟨_, step_rst hc he, rfl, rfl, rfl, rfl, fun i => ?_, rfl, rfl, rfl, rfl, rfl, rfl, rfl, rfl, rfl, rfl, rfl, rfl, rfl,
    rfl, rfl, rfl, rfl, rfl, rfl, rfl, rfl, fun sp a => readByte_resetBlock _ sp a⟩
  rw [buf_resetBlock]
  exact ⟨rfl, rfl⟩

/-- Settles O51: the parameters of `State.reset` are a configuration of the spec. -/
theorem resetMeetsInvariant : Obligations.ResetMeetsInvariant :=
  ⟨fun _ hc => blockOk_resetWith hc, blockOk_resetWith (by decide : Cfg.standard.ok = true)⟩

/-! ### What is enabled after reset (R301) -/

/-- Every tracker there is, is at its reset values. -/
theorem tracker?_resetWith (c : Cfg) (k : Nat) :
    (State.resetWith c).tracker? k = if k < c.ntrk then some Tracker.reset else none := by
  unfold State.tracker? State.resetWith
  split
  · rename_i hk; exact List.getElem?_replicate_of_lt hk
  · rfl

/-- No tracker is initialised after reset (44_init_config R254). -/
theorem tracker?_resetWith_any {f : Tracker → Bool} (hf : f Tracker.reset = false) (c : Cfg) (k : Nat) :
    ((State.resetWith c).tracker? k).any f = false := by
  rw [tracker?_resetWith]
  split
  · exact hf
  · rfl

/-- No update flag is set after reset (43_position R220). -/
theorem quiescent_resetWith (c : Cfg) : (State.resetWith c).quiescent = true := by
  have hflags : (State.resetWith c).pos.all (fun p => !p.uif) = true :=
    List.all_eq_true.mpr fun p hp => by rw [List.eq_of_mem_replicate hp]; rfl
  simp only [State.quiescent, hflags]
  rfl

/-- Settles O11: nothing is initialised, in progress or pending, so a label that needs any of these is not enabled. -/
theorem resetEnables : Obligations.ResetEnables := by
  intro c i
  refine ⟨⟨rfl, quiescent_resetWith c⟩, ?_⟩
  cases i with
  | init | setrxcb | initall => exact iff_of_true rfl trivial
  | posinit t | setdir t d =>
    change ((State.resetWith c).tracker? t.toNat).isSome = true ↔ _
    rw [tracker?_resetWith]
    simp
  | write | isbusy | chkfrm | rxpop | ncstep | icstep | eqdisp | dtxb | ltc | ltxe | lineb | drxb | lidle =>
    exact iff_of_false Bool.false_ne_true id
  | setpos t _ | getpos t | cntup t | cntdn t =>
    refine iff_of_false ?_ id
    simp [enabled, tracker?_resetWith_any (f := fun p => p.inited) rfl]
  | irqtxc | irqidle | irqrxne | irqore =>
    refine iff_of_false ?_ id
    simp [enabled, State.irqRequested, State.resetWith]
  | irqovf t =>
    refine iff_of_false ?_ id
    simp [enabled, tracker?_resetWith_any (f := fun p => p.inited && p.uif) rfl]

end Sys2Proof.Machine

/-! ## The record that every label keeps: what is still to come at the port, and the logs, which only grow (10_state R57). -/

namespace Sys2Proof.Machine

variable {s t : State}

/-- The log keeps its entries and gains at most one. -/
def GainsAtMostOne {α : Type} (before after : List α) : Prop := ∃ l, after = before ++ l ∧ l.length ≤ 1

theorem GainsAtMostOne.refl {α : Type} (l : List α) : GainsAtMostOne l l := ⟨[], (List.append_nil l).symm, Nat.zero_le 1⟩

theorem gainsAtMostOne_append {α : Type} (l : List α) (a : α) : GainsAtMostOne l (l ++ [a]) := ⟨[a], rfl, Nat.le_refl 1⟩

/-- What the next state `t` keeps of the record of `s`. -/
structure RecordKept (s t : State) : Prop where
  events : t.inp.events = s.inp.events
  txStream : GainsAtMostOne s.obs.txStream t.obs.txStream
  cbLog : GainsAtMostOne s.obs.cbLog t.obs.cbLog
  diagLog : GainsAtMostOne s.obs.diagLog t.obs.diagLog
  resp : GainsAtMostOne s.obs.resp t.obs.resp

/-- A label that writes no log. -/
theorem RecordKept.of (he : t.inp.events = s.inp.events) (ho : t.obs = s.obs) : RecordKept s t := by
  constructor <;> simp only [he, ho, GainsAtMostOne.refl]

theorem RecordKept.refl (s : State) : RecordKept s s := .of rfl rfl

theorem recordKept_respond (s : State) (st : BitVec 8) (v : BitVec 32) : RecordKept s (respond s st v) :=
  { RecordKept.refl s with resp := gainsAtMostOne_append .. }

theorem recordKept_emitTx (s : State) (b : Byte) : RecordKept s (emitTx s b) :=
  { RecordKept.refl s with txStream := gainsAtMostOne_append .. }

theorem recordKept_logCb (s : State) (c : CbCtx) : RecordKept s (logCb s c) :=
  { RecordKept.refl s with cbLog := gainsAtMostOne_append .. }

/-- What the phases of the sequencers and the labels ensure. -/
abbrev KeepsRecord (s : State) (o : Out State) : Prop := Ensures True (RecordKept s) o

theorem keepsRecord_writePhase (s : State) : KeepsRecord s (writePhase s) := by
  unfold writePhase
  cases s.nc.pc with
  | w0 | b0 => exact .ite (fun _ => recordKept_respond s _ _) fun _ => .of rfl rfl
  | ws => exact .ite (fun _ => .of (by simp) (by simp)) fun _ => .of rfl rfl
  | w1 | w5 => exact .of (by simp) (by simp)
  | w3 =>
    refine .ite (fun _ => ?_) fun _ => trivial
    cases hw : memWriteBytes s s.nc.tgt.space (s.buf s.nc.tgt).fill s.nc.chunkBytes with
    | error f => trivial
    | ok s1 =>
      obtain ⟨hs, -⟩ := memWriteBytes_ok hw
      exact .of (by simp [hs.inp]) (by simp [hs.obs])
  | w4 => exact .ite (fun _ => .of rfl rfl) fun _ => .of rfl rfl
  | b2 =>
    simp only [phaseB2]
    cases s.nc.data[s.nc.ip]? with
    | none => trivial
    | some b => exact .of rfl rfl
  | w2 | b1 | s1 | s2 | g1 | g2 => exact .of rfl rfl

/-- The last phases of `SETPOS` and `GETPOS` respond (43_position R227, R229). -/
theorem keepsRecord_positionPhase (hop : s.nc.op ≠ .write) : KeepsRecord s (ncPhase s) := by
  unfold ncPhase
  cases h : s.nc.op with
  | none => exact .refl s
  | write => exact absurd h hop
  | setpos =>
    cases s.nc.pc with
    | s1 =>
      simp only [phaseS1]
      cases s.tracker? s.nc.t <;> exact .of rfl rfl
    | s2 =>
      simp only [phaseS2]
      cases s.tracker? s.nc.t with
      | none => exact .refl s
      | some p => exact { recordKept_respond s statusOk 0 with }
    | _ => exact .refl s
  | getpos =>
    cases s.nc.pc with
    | g1 =>
      simp only [phaseG1]
      cases s.tracker? s.nc.t <;> exact .of rfl rfl
    | g2 =>
      simp only [phaseG2]
      cases s.tracker? s.nc.t with
      | none => exact .refl s
      | some p => exact recordKept_respond s _ _
    | _ => exact .refl s

theorem keepsRecord_ncPhase (s : State) : KeepsRecord s (ncPhase s) := by
  by_cases hop : s.nc.op = .write
  · rw [ncPhase, hop]
    exact keepsRecord_writePhase s
  · exact keepsRecord_positionPhase hop

/-- Of the handlers' phases only `I7` writes a log (41_receive R190). -/
theorem keepsRecord_icPhase (s : State) : KeepsRecord s (icPhase s) := by
  unfold icPhase
  cases s.ic.pc with
  | t1 | t5 | i1 | i2 | i3 | i5 | i6 | e1 => exact .of rfl rfl
  | t2 =>
    simp only [phaseT2]
    cases s.tx.dtx.src <;> exact .of rfl rfl
  | t3 => exact .of (by simp) (by simp)
  | t4 => exact .ite (fun _ => .of rfl rfl) fun _ => .of rfl rfl
  | t6 =>
    simp only [phaseT6]
    cases s.tx.hd <;> exact .of rfl rfl
  | i4 =>
    simp only [phaseI4]
    cases hc : copyFrame s 0 s.ic.len with
    | error f => trivial
    | ok s1 =>
      obtain ⟨hs1, -⟩ := copyFrame_frame hc
      rw [hs1]
      exact .of rfl rfl
  | i7 =>
    simp only [phaseI7]
    cases s.rx.cbReg with
    | false => exact .of rfl rfl
    | true =>
      cases s.rx.qAtt with
      | false => exact { recordKept_logCb s .interrupt with }
      | true => exact .of rfl rfl
  | n1 =>
    simp only [phaseN1]
    cases hp : ringPush s s.rx.rdr with
    | error f => trivial
    | ok s1 =>
      obtain ⟨-, rfl⟩ := ringPush_ok hp
      exact .of rfl rfl
  | o1 | o2 =>
    simp only [phaseO1, phaseO2]
    cases s.tracker? s.ic.t <;> exact .of rfl rfl

/-- A host command that is done in one step responds once; `INITALL` of an empty registry logs a diagnostic too
(44_init_config R255). -/
theorem keepsRecord_host {i : Instr} (hi : i.isHost = true) (s : State) : KeepsRecord s (exec i s) := by
  have hs := RecordKept.refl s
  have hr := recordKept_respond s
  cases i with
  | init baud parity hd => exact .whenReady hs fun _ => .ite (fun _ => trivial) fun _ => { hr statusOk 0 with }
  | write n => exact .whenReady hs fun _ => .needsUart (.guarded hs fun _ => .of rfl rfl)
  | isbusy => exact .whenReady hs fun _ => .needsUart (hr _ _)
  | chkfrm => exact .whenReady hs fun _ => .needsUart (.ite (fun _ => { hr statusOk 1 with }) fun _ => hr _ _)
  | setrxcb cb q => exact .whenReady hs fun _ => { hr statusOk 0 with }
  | rxpop =>
    refine .whenReady hs fun _ => .needsUart (.ite (fun _ => hr _ _) fun _ => ?_)
    cases memRead s .ring s.rx.rd with
    | error f => trivial
    | ok b => exact { hr statusOk (popValue b) with }
  | posinit t =>
    refine .trackerCommand hs (fun _ => hr _ _) fun _ _ => ?_
    obtain ⟨l, hl, -⟩ := markInited_eq s t.toNat
    rw [hl]
    exact { hr statusOk 0 with }
  | initall =>
    refine .whenReady hs fun _ => .ite (fun _ => ?_) fun _ => ?_
    · exact { hr statusOk 0 with diagLog := gainsAtMostOne_append .. }
    · obtain ⟨l, hl, -⟩ := foldl_markInited_eq (s.reg.slots.take s.reg.n) s
      rw [hl]
      exact { hr statusOk 0 with }
  | setdir t sign => exact .trackerCommand hs (fun _ => hr _ _) fun _ _ => { hr statusOk 0 with }
  | setpos t target | getpos t => exact .trackerCommand hs (fun _ => hr _ _) fun _ _ => .needsInited (.of rfl rfl)
  | _ => cases hi

theorem keepsRecord_exec (i : Instr) (s : State) : KeepsRecord s (exec i s) := by
  have hs := RecordKept.refl s
  cases i with
  | ncstep => exact .guarded hs fun _ => keepsRecord_ncPhase s
  | icstep => exact .guarded hs fun _ => keepsRecord_icPhase s
  | eqdisp => exact .guarded hs fun _ => { recordKept_logCb s .normal with }
  | dtxb =>
    simp only [exec, execDtxb]
    cases s.tx.dtx.src with
    | none => exact hs
    | some j =>
      refine .guarded hs fun _ => ?_
      cases memRead s j.space (s.tx.dtx.len - s.tx.dtx.rem) with
      | error f => trivial
      | ok b => exact { recordKept_emitTx s b with }
  | ltxe => exact .guarded hs fun _ => { recordKept_emitTx s s.tx.tdr with }
  | drxb =>
    refine .guarded hs fun _ => ?_
    cases hw : memWrite s .scr (s.cfg.scratchCap - s.rx.drx.rem) s.rx.rdr with
    | error f => trivial
    | ok s1 =>
      obtain ⟨-, rfl⟩ := memWrite_ok hw
      exact .of rfl rfl
  | lineb b => exact .guarded hs fun _ => .ite (fun _ => .of rfl rfl) fun _ => .of rfl rfl
  | ltc | lidle | irqtxc | irqidle | irqrxne | irqore => exact .guarded hs fun _ => .of rfl rfl
  | cntup t | cntdn t | irqovf t => exact .trackerEvent fun _ => .guarded hs fun _ => .of rfl rfl
  | init | write | isbusy | chkfrm | setrxcb | rxpop | posinit | initall | setdir | setpos | getpos =>
    exact keepsRecord_host rfl s

/-- Settles O46: the parameters and the registry are in the frame of every label. -/
theorem parametersAndLogs : Obligations.ParametersAndLogs := by
  intro i s t hst
  have k := (framed_exec i s).next hst
  have r := (keepsRecord_exec i s).next hst
  exact ⟨k.cfg, k.reg, k.trackers, r.events, r.txStream, r.cbLog, r.diagLog, r.resp⟩

end Sys2Proof.Machine

/-! ## Holds that nothing lifts: a `WRITE` held in `WS` with nothing under way, and a transfer of length 0 (70_reset_and_hazards R322,
R323; 93 U2, U15). -/

namespace Sys2Proof.Machine

variable {s t : State} {i : Instr}

/-- No transfer is to complete: the engine moves no byte, no completion is pending and its handler is not active. -/
structure NothingCompletes (s : State) : Prop where
  still : s.dtxMoving = false
  noCompletion : s.tx.tcif = false
  noHandler : s.ic.h ≠ .txc

theorem HeldForGood.nothingCompletes (h : HeldForGood s) : NothingCompletes s :=
  ⟨by simp [State.dtxMoving, h.stopped], h.noCompletion, h.noHandler⟩

theorem StalledForGood.nothingCompletes (h : StalledForGood s) : NothingCompletes s :=
  ⟨by simp [State.dtxMoving, h.nothingLeft], h.noCompletion, h.noHandler⟩

/-! ### Labels of the handlers and of the block's surroundings -/

/-- The transfer, the fill cursors and the command in progress are as before, and the completion handler is not active. -/
structure HoldKept (s t : State) : Prop where
  dtx : t.tx.dtx = s.tx.dtx
  inFlight : t.tx.inFlight = s.tx.inFlight
  tcif : t.tx.tcif = s.tx.tcif
  fill : ∀ j, (t.buf j).fill = (s.buf j).fill
  nc : t.nc = s.nc
  resp : t.obs.resp = s.obs.resp
  noHandler : t.ic.h ≠ .txc

theorem HoldKept.of (htx : t.tx = s.tx) (hn : t.nc = s.nc) (hr : t.obs.resp = s.obs.resp) (hh : t.ic.h ≠ .txc) :
    HoldKept s t :=
  ⟨by rw [htx], by rw [htx], by rw [htx], fun j => by rw [buf_congr htx], hn, hr, hh⟩

theorem HoldKept.refl (h : s.ic.h ≠ .txc) : HoldKept s s := .of rfl rfl rfl h

/-- A handler goes on or returns; no handler enters another (60_exceptions R276). -/
theorem icPhase_handler (s : State) : Ensures True (fun t => t.ic.h = s.ic.h ∨ t.ic.h = .none) (icPhase s) := by
  unfold icPhase
  cases s.ic.pc with
  | t1 | t5 | i1 | i2 | i3 | i5 | i6 => exact .inl rfl
  | i7 | t6 | e1 => exact .inr rfl
  | t2 =>
    simp only [phaseT2]
    cases s.tx.dtx.src <;> exact .inl rfl
  | t3 => exact .inl (by simp)
  | t4 => exact .ite (fun _ => .inl rfl) fun _ => .inl rfl
  | i4 =>
    simp only [phaseI4]
    cases hc : copyFrame s 0 s.ic.len with
    | error f => trivial
    | ok s1 =>
      obtain ⟨hs1, -⟩ := copyFrame_frame hc
      rw [hs1]
      exact .inl rfl
  | n1 =>
    simp only [phaseN1]
    cases ringPush s s.rx.rdr with
    | error f => trivial
    | ok s1 => exact .inr rfl
  | o1 =>
    simp only [phaseO1]
    cases s.tracker? s.ic.t <;> exact .inl rfl
  | o2 =>
    simp only [phaseO2]
    cases s.tracker? s.ic.t with
    | none => exact .inl rfl
    | some p => exact .inr rfl

/-- The handlers other than the completion handler. -/
theorem holdKept_icPhase (hp : s.ic.h.hasPhase s.ic.pc = true) (hh : s.ic.h ≠ .txc) :
    Ensures True (HoldKept s) (icPhase s) := by
  have hph : s.ic.pc.handler ≠ .txc := (hasPhase_iff _ _).mp hp ▸ hh
  refine ((keepsTx_icPhase hph).and ((interruptFrame_icPhase s).and (icPhase_handler s))).mono (fun _ => trivial) ?_
  rintro t ⟨htx, f, ht | ht⟩
  · exact .of htx f.nc f.resp (ht ▸ hh)
  · exact .of htx f.nc f.resp (by simp [ht])

theorem holdKept_boundary (h : NothingCompletes s) (hi : i.isBoundary = true) : Ensures True (HoldKept s) (exec i s) := by
  have hs := HoldKept.refl h.noHandler
  cases i with
  | dtxb =>
    have he : enabled .dtxb s = false := by simp [enabled, State.dtxbReady, h.still]
    rw [exec_of_not_enabled (i := .dtxb) rfl nofun he]
    exact hs
  | ltc | ltxe | lidle => exact .guarded hs fun _ => { hs with }
  | lineb b => exact .guarded hs fun _ => .ite (fun _ => { hs with }) fun _ => { hs with }
  | drxb =>
    refine .guarded hs fun _ => ?_
    cases hw : memWrite s .scr (s.cfg.scratchCap - s.rx.drx.rem) s.rx.rdr with
    | error f => trivial
    | ok s1 =>
      obtain ⟨-, rfl⟩ := memWrite_ok hw
      exact .of rfl rfl rfl h.noHandler
  | cntup t | cntdn t => exact .trackerEvent fun _ => .guarded hs fun _ => { hs with }
  | _ => cases hi

theorem holdKept_dispatch (h : NothingCompletes s) (hi : i.isDispatch = true) : Ensures True (HoldKept s) (exec i s) := by
  have hs := HoldKept.refl h.noHandler
  cases i with
  | irqtxc =>
    have he : enabled .irqtxc s = false := by simp [enabled, State.irqRequested, h.noCompletion]
    rw [exec_of_not_enabled (i := .irqtxc) rfl nofun he]
    exact hs
  | irqidle | irqrxne | irqore => exact .guarded hs fun _ => { hs with noHandler := nofun }
  | irqovf t => exact .trackerEvent fun _ => .guarded hs fun _ => { hs with noHandler := nofun }
  | _ => cases hi

/-- A label of normal context, or one that leaves what is held. -/
theorem normal_or_holdKept (h : NothingCompletes s) (hst : exec i s = .next t) :
    (i.isHost = true ∨ i = .ncstep ∨ i = .eqdisp) ∨ HoldKept s t := by
  rcases label_cases i with hi | hi | hi | hi | rfl | hi
  · exact .inl (.inl hi)
  · exact .inr ((holdKept_dispatch h hi).next hst)
  · exact .inr ((holdKept_boundary h hi).next hst)
  · exact .inl (.inr (.inl hi))
  · have hic : Ensures True (HoldKept s) (exec .icstep s) :=
      .guarded (.refl h.noHandler) fun hr => holdKept_icPhase (hasPhase_of_icstepReady hr) h.noHandler
    exact .inr (hic.next hst)
  · exact .inl (.inr (.inr hi))

/-! ### A `WRITE` held in `WS` -/

/-- Normal context is at the held phase: no label of its own is enabled (30_encoding R111, R125, R127). -/
theorem HeldForGood.exec_normal (h : HeldForGood s) (hi : i.isHost = true ∨ i = .ncstep ∨ i = .eqdisp) :
    exec i s = .next s := by
  have hbusy : s.cmdReady = false := by simp [State.cmdReady, h.writing]
  rcases hi with hi | rfl | rfl
  · exact exec_host_of_not_ready hi hbusy
  · have hheld : s.ncHeld = true := (ncHeld_ws h.selecting).mpr fun j => by simp [h.noneFree j]
    exact exec_of_not_enabled rfl nofun (by simp [enabled, State.ncstepReady, hheld])
  · exact exec_of_not_enabled rfl nofun (by simp [enabled, State.eqdispReady, hbusy])

/-- What makes a Buffer selectable (10_state R58). -/
theorem selectable_congr (hc : t.cfg = s.cfg) (k : HoldKept s t) (j : BufId) : t.selectable j = s.selectable j := by
  simp only [State.selectable, State.activeChannel, hc, k.dtx, k.fill]

theorem HeldForGood.of_holdKept (h : HeldForGood s) (hc : t.cfg = s.cfg) (k : HoldKept s t) : HeldForGood t where
  writing := k.nc ▸ h.writing
  selecting := k.nc ▸ h.selecting
  noneFree j := (selectable_congr hc k j).trans (h.noneFree j)
  stopped := k.dtx ▸ h.stopped
  noCompletion := k.tcif.trans h.noCompletion
  noHandler := k.noHandler

theorem HeldForGood.exec (h : HeldForGood s) (hst : exec i s = .next t) : HeldForGood t ∧ t.obs.resp = s.obs.resp := by
  rcases normal_or_holdKept h.nothingCompletes hst with hi | k
  · rw [h.exec_normal hi] at hst
    cases hst
    exact ⟨h, rfl⟩
  · exact ⟨h.of_holdKept ((framed_exec i s).next hst).cfg k, k.resp⟩

/-! ### A transfer of length 0 -/

/-- The label leaves the engine's registers. -/
abbrev KeepsDtx (s : State) (o : Out State) : Prop := Ensures True (fun t => t.tx.dtx = s.tx.dtx) o

/-- While a transfer is in flight the producer starts none (40_transmit R147). -/
theorem keepsDtx_writePhase (hfl : s.tx.inFlight = true) : KeepsDtx s (writePhase s) := by
  unfold writePhase
  cases s.nc.pc with
  | w0 | b0 => exact .ite (fun _ => rfl) fun _ => rfl
  | ws => exact .ite (fun _ => setBuf_dtx _ s.chosen _) fun _ => rfl
  | w1 | w5 => exact setBuf_dtx s s.nc.tgt _
  | w3 =>
    refine .ite (fun _ => ?_) fun _ => trivial
    cases hw : memWriteBytes s s.nc.tgt.space (s.buf s.nc.tgt).fill s.nc.chunkBytes with
    | error f => trivial
    | ok s1 =>
      obtain ⟨hs, -⟩ := memWriteBytes_ok hw
      exact (setBuf_dtx s1 s.nc.tgt _).trans (by rw [hs.tx])
  | w4 => exact .ite (fun _ => rfl) fun hn => absurd hfl hn
  | b2 =>
    simp only [phaseB2]
    cases s.nc.data[s.nc.ip]? with
    | none => trivial
    | some b => exact rfl
  | w2 | b1 | s1 | s2 | g1 | g2 => exact rfl

theorem keepsDtx_ncPhase (hfl : s.tx.inFlight = true) : KeepsDtx s (ncPhase s) := by
  by_cases hop : s.nc.op = .write
  · rw [ncPhase, hop]
    exact keepsDtx_writePhase hfl
  · exact (keepsTx_positionPhase hop).mono id fun _ ht => by rw [ht]

/-- A host command starts no transfer: `WRITE` latches its payload alone (40_transmit R141). -/
theorem keepsDtx_host (hi : i.isHost = true) : KeepsDtx s (exec i s) := by
  cases i with
  | init baud parity hd => exact .whenReady rfl fun _ => .ite (fun _ => trivial) fun _ => rfl
  | write n => exact .whenReady rfl fun _ => .needsUart (.guarded rfl fun _ => rfl)
  | isbusy => exact .whenReady rfl fun _ => .needsUart rfl
  | chkfrm => exact .whenReady rfl fun _ => .needsUart (.ite (fun _ => rfl) fun _ => rfl)
  | setrxcb cb q => exact .whenReady rfl fun _ => rfl
  | rxpop =>
    refine .whenReady rfl fun _ => .needsUart (.ite (fun _ => rfl) fun _ => ?_)
    cases memRead s .ring s.rx.rd with
    | error f => trivial
    | ok b => exact rfl
  | posinit t =>
    refine .trackerCommand rfl (fun _ => rfl) fun _ _ => ?_
    obtain ⟨l, hl, -⟩ := markInited_eq s t.toNat
    rw [hl]
    exact rfl
  | initall =>
    refine .whenReady rfl fun _ => .ite (fun _ => rfl) fun _ => ?_
    obtain ⟨l, hl, -⟩ := foldl_markInited_eq (s.reg.slots.take s.reg.n) s
    rw [hl]
    exact rfl
  | setdir t sign => exact .trackerCommand rfl (fun _ => rfl) fun _ _ => rfl
  | setpos t target | getpos t => exact .trackerCommand rfl (fun _ => rfl) fun _ _ => .needsInited rfl
  | _ => cases hi

theorem keepsDtx_normal (hfl : s.tx.inFlight = true) (hi : i.isHost = true ∨ i = .ncstep ∨ i = .eqdisp) :
    KeepsDtx s (exec i s) := by
  rcases hi with hi | rfl | rfl
  · exact keepsDtx_host hi
  · exact .guarded rfl fun _ => keepsDtx_ncPhase hfl
  · exact .guarded rfl fun _ => rfl

theorem StalledForGood.exec (h : StalledForGood s) (hst : exec i s = .next t) : StalledForGood t := by
  rcases normal_or_holdKept h.nothingCompletes hst with hi | k
  · have hdtx := (keepsDtx_normal h.inFlight hi).next hst
    have f := (normalFrame_exec hi s).next hst
    exact ⟨f.inFlight h.inFlight, by rw [hdtx, h.nothingLeft], f.tcif.trans h.noCompletion, by rw [f.ic]; exact h.noHandler⟩
  · exact ⟨k.inFlight.trans h.inFlight, by rw [k.dtx, h.nothingLeft], k.tcif.trans h.noCompletion, k.noHandler⟩

/-- Settles O53: normal context is held or starts no transfer, and no other label brings a completion. -/
theorem stuckRunsStayStuck : Obligations.StuckRunsStayStuck := fun _ _ _ hst => ⟨fun h => h.exec hst, fun h => h.exec hst⟩

end Sys2Proof.Machine

/-! ## A wrap and its handler between the two reads of `GETPOS` (70_reset_and_hazards R326; 43_position R229). -/

namespace Sys2Proof.Machine

variable {s : State} {t : BitVec 8} {p : Tracker}

/-- The tracker after a forward wrap and its handler (43_position R220, R223, R224). -/
def Tracker.wrappedUp (p : Tracker) : Tracker := { p with cnt := 0, ext := p.ext + 1, uif := false }

/-- The first read sees the tracker before the wrap, the second after it. -/
theorem run_getpos_torn (hr : CommandPortReady s) (hfree : PriorityFree s) (hp : s.tracker? t.toNat = some p)
    (hi : p.inited = true) (hc : p.cnt.toNat = 65535) :
    runLabels [.getpos t, .ncstep, .cntup t, .irqovf t, .icstep, .icstep, .ncstep] s = .next (respond
      (overflowDone (getposAt (s.setTracker t.toNat p.wrappedUp) t.toNat (firstRead s.cfg.getposOrder p) .g2) t.toNat) statusOk
      (posValue (directed p.dir (rawAtG2 s.cfg.getposOrder (firstRead s.cfg.getposOrder p) p.wrappedUp)))) := by
  obtain ⟨-, hh, hf⟩ := id hr
  have h0 : exec (.getpos t) s = .next (getposAt s t.toNat s.nc.e .g1) := position_ready hr hp hi
  have hwrap := run_cntup_wrap (s := getposAt s t.toNat (firstRead s.cfg.getposOrder p) .g2) hh hf hfree hp hi hc
  have hp' := tracker_setTracker_same s (q := p.wrappedUp) hp
  have h2 := exec_ncstep_g2 (s := overflowDone
    (getposAt (s.setTracker t.toNat p.wrappedUp) t.toNat (firstRead s.cfg.getposOrder p) .g2) t.toNat)
    ⟨rfl, hf, rfl, rfl⟩ hp'
  rw [runLabels_cons h0, runLabels_cons (exec_getposAt_g1 hp hh hf)]
  exact (runLabels_append (ms := [.ncstep]) hwrap).trans (runLabels_cons h2)

/-- The extension of one wrap and the count of the other: 65536 too small or 65535 too large, by the read order. -/
theorem rawAtG2_torn (hc : p.cnt.toNat = 65535) (he : p.ext.toInt < 32767) (o : GetposOrder) :
    rawAtG2 o (firstRead o p) p.wrappedUp =
      if o = .extFirst then p.ext.toInt * 65536 else (p.ext.toInt + 1) * 65536 + 65535 := by
  cases o with
  | extFirst => exact Int.add_zero _
  | cntFirst =>
    change (p.ext + 1).toInt * 65536 + (p.cnt.toNat : Int) = (p.ext.toInt + 1) * 65536 + 65535
    rw [toInt_add_one (by omega), hc]
    rfl

/-- Settles O60. -/
theorem tornPositionRead : Obligations.TornPositionRead := by
  intro s t p hr hfree hp hi hdir hc he
  refine ⟨_, run_getpos_torn hr hfree hp hi hc, ?_⟩
  rw [hdir, rawAtG2_torn hc he]
  rfl

end Sys2Proof.Machine

/-! ## A completion taken between `W4` and `W5` (70_reset_and_hazards R323). -/

namespace Sys2Proof.Machine

variable {s : State} {i j : BufId}

/-! ### The completion handler with nothing to hand over (40_transmit R160 to R165) -/

/-- The completion handler is active at phase `ph`, the engine stopped and the flag acknowledged, with `j` as the Buffer that
finished. -/
def completing (s : State) (j : BufId) (ph : IcPhase) : State :=
  { s with
    tx := { s.tx with dtx := { s.tx.dtx with en := false }, tcif := false }
    ic := { s.ic with h := .txc, pc := ph, done := j } }

/-- The fill cursor of Buffer `j` is reset (R162). -/
def emptied (s : State) (j : BufId) : State := s.setBuf j { s.buf j with fill := 0 }

/-- The transfer of Buffer `j` has ended, no other was started and the handler has returned. -/
def transferEnded (s : State) (j : BufId) : State :=
  leaveHandler (completing { emptied s j with tx := { (emptied s j).tx with inFlight := false } } j .t6)

/-- A phase of the handler that is never held. -/
theorem exec_completing {ph : IcPhase} (hf : s.fault = .none) (hp : Handler.txc.hasPhase ph = true) (h6 : ph ≠ .t6) :
    exec .icstep (completing s j ph) = icPhase (completing s j ph) := exec_icstep_txc ⟨hf, rfl, rfl⟩ hp h6

theorem exec_completing_t3 (hf : s.fault = .none) :
    exec .icstep (completing s j .t3) = .next (completing (emptied s j) j .t4) := by
  rw [exec_completing (ph := .t3) hf rfl nofun]
  cases j <;> rfl

/-- A busy Buffer is not handed over to (R163). -/
theorem exec_completing_t4 (hf : s.fault = .none) (hb : (s.buf j.other).busy = true) :
    exec .icstep (completing s j .t4) = .next (completing s j .t5) := by
  have hr : ¬ (completing s j .t4).otherReady = true := fun h => by
    obtain ⟨-, hfree⟩ := (otherReady_iff _).mp h
    exact Bool.false_ne_true (hfree.symm.trans hb)
  exact (exec_completing (ph := .t4) hf rfl nofun).trans (if_neg hr)

/-- In full duplex `T6` is not held, and leaves the line (R165). -/
theorem exec_completing_t6 (hf : s.fault = .none) (hd : s.tx.hd = false) :
    exec .icstep (completing s j .t6) = .next (leaveHandler (completing s j .t6)) := by
  have hheld : (completing s j .t6).icHeld = false := (icHeld_t6 rfl).mpr fun h => by simp [completing, hd] at h
  have hline : ¬ (completing s j .t6).tx.hd = true := by simp [completing, hd]
  rw [exec_icstep_t6 (s := completing s j .t6) ⟨hf, rfl, rfl⟩, hheld, phaseT6, if_neg hline]
  rfl

/-- The handler from its entry to its return, the other Buffer still busy. -/
theorem run_completion (hf : s.fault = .none) (hsrc : s.tx.dtx.src = some j) (hb : (s.buf j.other).busy = true)
    (hd : s.tx.hd = false) :
    runLabels (List.replicate 6 .icstep) (enterHandler s .txc .t1) = .next (transferEnded s j) := by
  have h1 : exec .icstep (enterHandler s .txc .t1) = .next (completing s s.ic.done .t2) :=
    exec_icstep_txc ⟨hf, rfl, rfl⟩ rfl nofun
  have h2 : exec .icstep (completing s s.ic.done .t2) = .next (completing s j .t3) := by
    rw [exec_completing (ph := .t2) hf rfl nofun]
    simp only [icPhase, phaseT2, completing, hsrc]
  have hfe : (emptied s j).fault = .none := (setBuf_fault s j _).trans hf
  have hbe : ((emptied s j).buf j.other).busy = true := by rwa [emptied, buf_setBuf_other s _ (BufId.other_ne j)]
  have h5 : exec .icstep (completing (emptied s j) j .t5) = .next
      (completing { emptied s j with tx := { (emptied s j).tx with inFlight := false } } j .t6) :=
    exec_completing hfe rfl nofun
  have h6 : exec .icstep (completing { emptied s j with tx := { (emptied s j).tx with inFlight := false } } j .t6) =
      .next (transferEnded s j) := exec_completing_t6 hfe ((setBuf_hd s j _).trans hd)
  rw [List.replicate_succ, runLabels_cons h1, List.replicate_succ, runLabels_cons h2,
    List.replicate_succ, runLabels_cons (exec_completing_t3 hf),
    List.replicate_succ, runLabels_cons (exec_completing_t4 hfe hbe), List.replicate_succ, runLabels_cons h5,
    List.replicate_succ, runLabels_cons h6]
  rfl

/-! ### The race (R323) -/

@[simp] theorem transferEnded_nc (s : State) (j : BufId) : (transferEnded s j).nc = s.nc := setBuf_nc s j _
@[simp] theorem transferEnded_fault (s : State) (j : BufId) : (transferEnded s j).fault = s.fault := setBuf_fault s j _
@[simp] theorem transferEnded_handler (s : State) (j : BufId) : (transferEnded s j).ic.h = .none := rfl
@[simp] theorem transferEnded_inFlight (s : State) (j : BufId) : (transferEnded s j).tx.inFlight = false := rfl
@[simp] theorem transferEnded_tcif (s : State) (j : BufId) : (transferEnded s j).tx.tcif = false := rfl
@[simp] theorem transferEnded_dtx (s : State) (j : BufId) : (transferEnded s j).tx.dtx = { s.tx.dtx with en := false } :=
  congrArg (fun d : Dtx => { d with en := false }) (setBuf_dtx s j _)

theorem buf_transferEnded_same (s : State) (j : BufId) : (transferEnded s j).buf j = { s.buf j with fill := 0 } := by
  cases j <;> rfl

theorem buf_transferEnded_other (s : State) (j : BufId) : (transferEnded s j).buf j.other = s.buf j.other := by
  cases j <;> rfl

@[simp] theorem readByte_transferEnded (s : State) (j : BufId) (sp : Space) (a : Nat) :
    (transferEnded s j).readByte sp a = s.readByte sp a := by
  cases j <;> cases sp <;> rfl

@[simp] theorem released_tcif (s : State) : (released s).tx.tcif = s.tx.tcif := setBuf_tcif s s.nc.tgt _

theorem buf_released_other (h : i ≠ s.nc.tgt) : (released s).buf i = s.buf i := buf_setBuf_other s _ h

@[simp] theorem readByte_released (s : State) (sp : Space) (a : Nat) : (released s).readByte sp a = s.readByte sp a :=
  congrArg (Memory.read · a) (mem_setBuf_keep s s.nc.tgt _ false sp)

/-- The run of the race: `T4` finds the target `i` busy and hands over nothing, and `W5` starts nothing. -/
theorem run_race (hat : NormalAt s .write .w5) (hfree : PriorityFree s) (hu : s.uartInit = true)
    (hdma : s.cfg.txMode = .dma) (hhd : s.tx.hd = false) (hbusy : (s.buf i).busy = true) (htcif : s.tx.tcif = true)
    (hsrc : s.tx.dtx.src = some i.other) :
    runLabels ([.irqtxc] ++ List.replicate 6 .icstep ++ [.ncstep]) s = .next (released (transferEnded s i.other)) := by
  obtain ⟨hh, hf, hop, hpc⟩ := id hat
  obtain ⟨hirq, -⟩ := dispatchEnters s hh hf hfree
  have hrun := run_completion hf hsrc (by rwa [BufId.other_other]) hhd
  obtain ⟨-, -, -, -, w5⟩ := producerPhases (transferEnded s i.other)
  have h5 : exec .ncstep (transferEnded s i.other) = .next (released (transferEnded s i.other)) :=
    w5 (by simp [NormalAt, hf, hop, hpc])
  exact (runLabels_cons (hirq hu hdma htcif)).trans ((runLabels_append hrun).trans (runLabels_cons h5))

/-- Settles O54: the two Buffers as the run leaves them, `i` released and the other one emptied. -/
theorem startToClearRace : Obligations.StartToClearRace := by
  intro s i hat hfree hu hdma hhd htgt hbusy htcif _ hsrc
  have htarget : (released (transferEnded s i.other)).buf i = { s.buf i with busy := false } := by
    have h := buf_released (transferEnded s i.other)
    have hqueued := buf_transferEnded_other s i.other
    rw [BufId.other_other] at hqueued
    rwa [transferEnded_nc, htgt, hqueued] at h
  have hfinished : (released (transferEnded s i.other)).buf i.other = { s.buf i.other with fill := 0 } := by
    rw [buf_released_other (by simp [htgt]), buf_transferEnded_same]
  refine ⟨_, run_race hat hfree hu hdma hhd hbusy htcif hsrc, ?_, rfl, ?_⟩
  · exact (congrArg Nc.op (transferEnded_nc s i.other)).trans hat.op_eq
  · simp [htarget, hfinished, hsrc]

end Sys2Proof.Machine

/-! ## The DMA engines byte by byte, and the non-DMA `WRITE` from its acceptance to the line (40_transmit R149 to R154;
41_receive R182). -/

namespace Sys2Proof.Machine

variable {s : State} {i : BufId} {b : Byte} {bs : List Byte}

/-! ### `DTXB` and `DRXB` (40_transmit R152, 41_receive R182) -/

theorem dtxbReady_iff (s : State) : s.dtxbReady = true ↔ s.uartInit = true ∧ s.fault = .none ∧ s.cfg.txMode = .dma ∧
    s.tx.dtx.en = true ∧ 0 < s.tx.dtx.rem := by
  simp only [State.dtxbReady, Bool.and_eq_true, serialOn_iff, dtxMoving_iff, decide_eq_true_eq, and_assoc]

theorem exec_dtxb_of (hr : s.dtxbReady = true) (hsrc : s.tx.dtx.src = some i)
    (hread : memRead s i.space (s.tx.dtx.len - s.tx.dtx.rem) = .ok b) : exec .dtxb s = .next (byteMoved s b) := by
  simp only [exec, execDtxb, hsrc, hr, hread, if_true, byteMoved, emitTx_tx]

/-- Settles O37: the byte is in range of its Buffer, and only the last one raises the completion flag. -/
theorem dtxbResult : Obligations.DtxbResult := by
  intro s i b hu hm hf hen hpos hsrc hrem hlen hb
  have hread : memRead s i.space (s.tx.dtx.len - s.tx.dtx.rem) = .ok b :=
    memRead_of (by rw [capacityOf_space]; omega) hb
  have hlast : (s.tx.tcif || decide (s.tx.dtx.rem - 1 = 0)) = if s.tx.dtx.rem = 1 then true else s.tx.tcif := by
    by_cases h1 : s.tx.dtx.rem = 1
    · simp [h1]
    · simp [h1, show s.tx.dtx.rem - 1 ≠ 0 by omega]
  rw [exec_dtxb_of ((dtxbReady_iff s).mpr ⟨hu, hf, hm, hen, hpos⟩) hsrc hread, byteMoved, hlast]
  rfl

/-- Settles O39: the count, from 1 to the capacity, names an index in range. -/
theorem drxbResult : Obligations.DrxbResult := by
  intro s hu hm hf hen hfull hpos hcap
  have hready := (drxbReady_iff s).mpr ⟨hu, hf, hm, hen, hfull⟩
  exact ⟨_, exec_drxb_of hready (by omega), read_write_same .., fun a ha => read_write_other _ _ ha⟩

/-! ### The byte phases `B1` and `B2` (R150, R151) -/

/-- `B1` is held exactly while the data register is full (30_encoding R125). -/
theorem ncHeld_b1 (hpc : s.nc.pc = .b1) : s.ncHeld = !s.tx.txe := by simp only [State.ncHeld, hpc]

/-- Settles O26: transmit-empty lifts the hold of `B1`; `B2` is never held. -/
theorem byteWritePhases : Obligations.ByteWritePhases := by
  intro s
  refine ⟨fun h => ?b1, fun b h hb => ?b2⟩
  case b1 =>
    cases htxe : s.tx.txe with
    | true =>
      have hfree : s.ncHeld = false := by rw [ncHeld_b1 h.pc_eq, htxe]; rfl
      rw [exec_ncstep_of h rfl hfree, ncPhase, h.op_eq, writePhase, h.pc_eq]
      rfl
    | false =>
      have hheld : s.ncHeld = true := by rw [ncHeld_b1 h.pc_eq, htxe]; rfl
      exact ite_notTaken (by simp [State.ncstepReady, hheld])
  case b2 =>
    rw [exec_ncstep_write h rfl nofun nofun, writePhase, h.pc_eq]
    simp only [phaseB2, hb]

/-! ### One byte of a non-DMA `WRITE` (R149 to R151, R154) -/

/-- A non-DMA `WRITE` stands at its loop test with the bytes `bs` still to send and the data register empty. -/
structure Sending (s : State) (bs : List Byte) : Prop where
  uartInit : s.uartInit = true
  mode : s.cfg.txMode = .irq
  at_b0 : NormalAt s .write .b0
  empty : s.tx.txe = true
  left : s.nc.rem = bs.length
  input : s.nc.data.drop s.nc.ip = bs

/-- The byte has gone through the data register to the line, and the loop test is next. -/
def byteSent (s : State) (b : Byte) : State :=
  { s with
    tx := { s.tx with tdr := b, txe := true, tc := false }
    nc := { s.nc with ip := s.nc.ip + 1, rem := s.nc.rem - 1, pc := .b0 }
    obs := { s.obs with txStream := s.obs.txStream ++ [b] } }

/-- The labels that send one byte: `B0`, `B1` and `B2`, then the transmitter takes the data register. -/
abbrev byteLabels : List Instr := [.ncstep, .ncstep, .ncstep, .ltxe]

theorem Sending.run_byte (h : Sending s (b :: bs)) :
    runLabels byteLabels s = .next (byteSent s b) ∧ Sending (byteSent s b) bs := by
  obtain ⟨hu, hm, hat, htxe, hleft, hinput⟩ := h
  obtain ⟨hi, hf, hop, -⟩ := id hat
  have hbyte : s.nc.data[s.nc.ip]? = some b := by
    rw [← List.head?_drop, hinput, List.head?_cons]
  obtain ⟨-, b0, -⟩ := producerPhases s
  have h0 := b0 hat
  rw [if_neg (by simp [hleft])] at h0
  obtain ⟨b1, -⟩ := byteWritePhases { s with nc := { s.nc with pc := .b1 } }
  have h1 := b1 ⟨hi, hf, hop, rfl⟩
  rw [if_pos htxe] at h1
  obtain ⟨-, b2⟩ := byteWritePhases { s with nc := { s.nc with pc := .b2 } }
  have h2 := b2 b ⟨hi, hf, hop, rfl⟩ hbyte
  obtain ⟨-, ltxe, -⟩ := serialLineEvents
    { s with
      tx := { s.tx with tdr := b, txe := false, tc := false }
      nc := { s.nc with ip := s.nc.ip + 1, rem := s.nc.rem - 1, pc := .b0 } } b
  rw [if_pos ⟨hu, hm, hf, rfl⟩] at ltxe
  refine ⟨?_, hu, hm, ⟨hi, hf, hop, rfl⟩, rfl, ?_, ?_⟩
  · rw [runLabels_cons h0, runLabels_cons h1, runLabels_cons h2, runLabels_cons ltxe]
    rfl
  · exact (congrArg (· - 1) hleft).trans (Nat.add_sub_cancel ..)
  · exact List.drop_drop.symm.trans (congrArg (List.drop 1) hinput)

/-! ### The whole non-DMA `WRITE` -/

/-- The payload left reaches the line whole and in order. -/
theorem Sending.run : ∀ {bs : List Byte} {s : State}, Sending s bs →
    ∃ t, runLabels (List.replicate bs.length byteLabels).flatten s = .next t ∧ Sending t []
      ∧ t.obs = { s.obs with txStream := s.obs.txStream ++ bs } := by
  intro bs
  induction bs with
  | nil => exact fun {s} h => ⟨s, rfl, h, by rw [List.append_nil]⟩
  | cons b bs ih =>
    intro s h
    obtain ⟨hbyte, h'⟩ := h.run_byte
    obtain ⟨t, hrun, hdone, hobs⟩ := ih h'
    refine ⟨t, ?_, hdone, ?_⟩
    · rw [List.length_cons, List.replicate_succ, List.flatten_cons, runLabels_append hbyte, hrun]
    · simp [hobs, byteSent]

/-- With nothing left the loop test answers the host (R149). -/
theorem Sending.exec_answer (h : Sending s []) : exec .ncstep s = .next (respond s statusOk 0) := by
  obtain ⟨-, b0, -⟩ := producerPhases s
  rw [b0 h.at_b0, if_pos (show s.nc.rem = 0 from h.left)]

/-- The acceptance in the non-DMA mode (R141) leaves the whole payload to send, and the observation as it was. -/
theorem exec_write_irq {n : BitVec 32} (hr : CommandPortReady s) (hu : s.uartInit = true) (hm : s.cfg.txMode = .irq)
    (htxe : s.tx.txe = true) (hlen : n.toNat ≤ s.inp.wdata.length) :
    ∃ t, exec (.write n) s = .next t ∧ Sending t (s.inp.wdata.take n.toNat) ∧ t.obs = s.obs := by
  obtain ⟨-, hi, hf⟩ := id hr
  refine ⟨_, writeAccepted n s hr hu hlen, ⟨hu, hm, ⟨hi, hf, rfl, ?_⟩, htxe, ?_, rfl⟩, rfl⟩
  · exact if_neg (by simp [hm])
  · simp [hlen]

/-- Settles O56: the payload is accepted, sent byte by byte, and answered. -/
theorem nonDmaWriteDelivers : Obligations.NonDmaWriteDelivers := by
  intro s n hr hu hm htxe hlen
  obtain ⟨t, hwrite, hsending, hobs⟩ := exec_write_irq hr hu hm htxe hlen
  obtain ⟨u, hrun, hdone, hsent⟩ := hsending.run
  have hbs : (s.inp.wdata.take n.toNat).length = n.toNat := by simp [hlen]
  rw [hbs] at hrun
  refine ⟨respond u statusOk 0, ?_, ?_, ?_, rfl, hdone.empty⟩
  · rw [List.append_assoc, List.singleton_append, runLabels_cons hwrite, runLabels_append hrun,
      runLabels_cons hdone.exec_answer]
    rfl
  · simp [respond, hsent, hobs]
  · simp [respond, hsent, hobs]

end Sys2Proof.Machine
